-- ==== Sys2Proof/Word.lean ====
section
/-! DEFINITION. The value types of LED-CORE: nibbles, bytes, port words and the 4x4 matrix of nibbles. -/

namespace Sys2Proof

/-- A 4-bit value in [0,15] (R19). -/
abbrev Nibble := BitVec 4

/-- One byte of a block or key (R12). -/
abbrev Byte := BitVec 8

/-- A command word, as it stands on the CMD port (R71, R90). -/
abbrev Word := BitVec 32

/-- A value of the DIN_BLOCK or DOUT port (R71). -/
abbrev Block := BitVec 64

/-- A value of the DIN_KEY port (R71). -/
abbrev KeyWord := BitVec 128

/-- A 4x4 matrix of nibbles, `S[r][c]` with row r and column c in 0..3 (R19, R30). -/
abbrev CellMatrix := Vector (Vector Nibble 4) 4

end Sys2Proof
end

