-- ==== Sys2Proof/Syntax.lean ====
section
/-! DEFINITION. The ten commands of LED-CORE, one constructor per row of the opcode table (R95).
Every operand is an unsigned field of its own width (R92, R93), so an operand that does not fit its field cannot be
written here; the assembler is where a larger number is rejected (R99, Machine/Assembler.lean). -/

namespace Sys2Proof

/-- A command of LED-CORE (R95). -/
inductive Instr where
  /-- GFMUL: multiply two nibbles in GF(2^4) (R125). -/
  | gfmul (a b : Nibble)
  /-- LOADPT: load the plaintext block into the state matrix (R142). -/
  | loadpt (blen : BitVec 4)
  /-- LOADKEY: derive and load the key nibbles and the key size (R152). -/
  | loadkey (kb : BitVec 8) (klen : BitVec 5)
  /-- ADDKEY: XOR key material into the state matrix (R171). -/
  | addkey (step : BitVec 6)
  /-- ADDCONST: inject the round constant and key-size tag of round r (R181). -/
  | addconst (r : BitVec 6)
  /-- SUBCELLS: apply the S-box to every cell (R191). -/
  | subcells
  /-- SHIFTROWS: rotate each row left by its row index (R196). -/
  | shiftrows
  /-- MIXCOL: multiply each column by the diffusion matrix (R201). -/
  | mixcol
  /-- READOUT: copy the state matrix to the output register (R143). -/
  | readout
  /-- ENCRYPT: encrypt one 64-bit block with LED-64 or LED-128 (R220). -/
  | encrypt (kb : BitVec 8) (blen : BitVec 4) (klen : BitVec 5)
deriving DecidableEq, Repr

end Sys2Proof
end

