-- ==== Sys2Proof/WellFormed.lean ====
section
/-! DEFINITION. Which commands an implementation has: with STEP_PORT = false only ENCRYPT is implemented (R15, R97).
Operand widths need no check here, since the types of Instr's fields are the fields' widths (R92). -/

namespace Sys2Proof

/-- The command exists on an implementation with this STEP_PORT option (R15). -/
def Instr.wellFormed (stepPort : Bool) : Instr → Bool
  | .gfmul _ _ => stepPort
  | .loadpt _ => stepPort
  | .loadkey _ _ => stepPort
  | .addkey _ => stepPort
  | .addconst _ => stepPort
  | .subcells => stepPort
  | .shiftrows => stepPort
  | .mixcol => stepPort
  | .readout => stepPort
  | .encrypt _ _ _ => true

end Sys2Proof
end

