-- ==== Sys2Proof/Decode.lean ====
section
/-! DEFINITION. Decoding a 32-bit command word, total on all 2^32 words (R96), and the encoder.
A word that is no command is rejected by name (R97). -/

namespace Sys2Proof

/-! ## The fields of a command word (R92) -/

/-- OP, bits [3:0]. -/
def fieldOP (w : Word) : BitVec 4 := w.extractLsb' 0 4
/-- A, bits [7:4]. -/
def fieldA (w : Word) : BitVec 4 := w.extractLsb' 4 4
/-- B, bits [11:8]. -/
def fieldB (w : Word) : BitVec 4 := w.extractLsb' 8 4
/-- KB, bits [11:4]. -/
def fieldKB (w : Word) : BitVec 8 := w.extractLsb' 4 8
/-- BLEN, bits [15:12]. -/
def fieldBLEN (w : Word) : BitVec 4 := w.extractLsb' 12 4
/-- KLEN, bits [20:16]. -/
def fieldKLEN (w : Word) : BitVec 5 := w.extractLsb' 16 5
/-- IDX, bits [26:21]. -/
def fieldIDX (w : Word) : BitVec 6 := w.extractLsb' 21 6

/-! ## The opcode table (R95) -/

/-- One row of the opcode map: a word w with this OP is the command when `w &&& mask = matchWord`. -/
structure OpRow where
  op : BitVec 4
  matchWord : Word
  mask : Word
  /-- The command with its fields filled in from the word. -/
  build : Word → Instr

/-- The ten rows of R95, in the order of their opcodes. -/
def opTable : List OpRow := [
  ⟨0x1, 0x00000001, 0xFFFFF00F, fun w => .gfmul (fieldA w) (fieldB w)⟩,
  ⟨0x2, 0x00000002, 0xFFFF0FFF, fun w => .loadpt (fieldBLEN w)⟩,
  ⟨0x3, 0x00000003, 0xFFE0F00F, fun w => .loadkey (fieldKB w) (fieldKLEN w)⟩,
  ⟨0x4, 0x00000004, 0xF81FFFFF, fun w => .addkey (fieldIDX w)⟩,
  ⟨0x5, 0x00000005, 0xF81FFFFF, fun w => .addconst (fieldIDX w)⟩,
  ⟨0x6, 0x00000006, 0xFFFFFFFF, fun _ => .subcells⟩,
  ⟨0x7, 0x00000007, 0xFFFFFFFF, fun _ => .shiftrows⟩,
  ⟨0x8, 0x00000008, 0xFFFFFFFF, fun _ => .mixcol⟩,
  ⟨0x9, 0x00000009, 0xFFFFFFFF, fun _ => .readout⟩,
  ⟨0xA, 0x0000000A, 0xFFE0000F, fun w => .encrypt (fieldKB w) (fieldBLEN w) (fieldKLEN w)⟩]

/-- Why a word is no command (R97). Each of the three raises ILLEGAL_COMMAND (R241). -/
inductive Illegal where
  /-- OP is 0x0 or in 0xB..0xF. -/
  | reservedOpcode
  /-- STEP_PORT = false and OP is not 0xA. -/
  | noStepPort
  /-- A 1 stands in a bit that the format marks 0. -/
  | fixedBitSet
deriving DecidableEq, Repr

/-- Decode a command word (R96). Operand values are not checked here. -/
def decode (stepPort : Bool) (w : Word) : Except Illegal Instr :=
  match opTable.find? (fun row => row.op == fieldOP w) with
  | none => .error .reservedOpcode
  | some row =>
    if stepPort = false ∧ fieldOP w ≠ 0xA then .error .noStepPort
    else if w &&& row.mask ≠ row.matchWord then .error .fixedBitSet
    else .ok (row.build w)

/-! ## The encoder (R99) -/

/-- The opcode of a command (R95). -/
def Instr.opcode : Instr → BitVec 4
  | .gfmul _ _ => 0x1
  | .loadpt _ => 0x2
  | .loadkey _ _ => 0x3
  | .addkey _ => 0x4
  | .addconst _ => 0x5
  | .subcells => 0x6
  | .shiftrows => 0x7
  | .mixcol => 0x8
  | .readout => 0x9
  | .encrypt _ _ _ => 0xA

/-- The word of a command, as the syntax table of R99 gives it. -/
def encode : Instr → Word
  | .gfmul a b => 0x1 ||| (a.setWidth 32 <<< 4) ||| (b.setWidth 32 <<< 8)
  | .loadpt blen => 0x2 ||| (blen.setWidth 32 <<< 12)
  | .loadkey kb klen => 0x3 ||| (kb.setWidth 32 <<< 4) ||| (klen.setWidth 32 <<< 16)
  | .addkey step => 0x4 ||| (step.setWidth 32 <<< 21)
  | .addconst r => 0x5 ||| (r.setWidth 32 <<< 21)
  | .subcells => 0x6
  | .shiftrows => 0x7
  | .mixcol => 0x8
  | .readout => 0x9
  | .encrypt kb blen klen =>
    0xA ||| (kb.setWidth 32 <<< 4) ||| (blen.setWidth 32 <<< 12) ||| (klen.setWidth 32 <<< 16)

/-- What the decoder reads from the table's bits, numbered as the table numbers them: a command is one 32-bit word (R98),
bits that the table does not give are 0, and more than 32 bits are no command. The option STEP_PORT is at its default
(R15, log 3). -/
def decodeTableWord (nbits w : Nat) : Option Instr :=
  if nbits ≤ 32 then (decode true (BitVec.ofNat 32 (w % 2 ^ nbits))).toOption else none

end Sys2Proof
end

