-- ==== Sys2Proof/Config.lean ====
section
/-! DEFINITION. What an implementation of LED-CORE fixes: the constant tables, the STEP_PORT option and the latencies.
The tables and the option are plain data; a State carries them (log 2, log 3), so that a statement about every state is a
statement about every implementation. The values no rule gives are opaque constants. -/

namespace Sys2Proof

/-- The parameters fixed for the life of the hardware (R14, R15, R53, R67). -/
structure Config where
  /-- The substitution table (R50). -/
  SBOX : Vector Nibble 16
  /-- The diffusion matrix, `MD[i][k]` with row i and column k (R51). -/
  MD : CellMatrix
  /-- The round constants, indexed by the global round index 0..47 (R52). -/
  RC : Vector (BitVec 6) 48
  /-- Whether the nine step commands are implemented (R15). -/
  STEP_PORT : Bool
deriving DecidableEq, Repr

/-- "each value 0..15 exactly once": what a model that takes SBOX as a parameter must require of it (R50). -/
def Config.sboxIsPermutation (c : Config) : Bool :=
  (List.range 16).all fun v => c.SBOX.toList.count (BitVec.ofNat 4 v) == 1

/-- The latency `LAT(op, kb)` of a command that completes (R16). kb is given for ENCRYPT only.
Open: an implementation fixes it, and no rule of the machine reads it (R293, log 10). -/
opaque Config.lat (op : BitVec 4) (kb : Option (BitVec 8)) : Nat

/-- The latency of a command that ends in an error, which may depend on the command word, SV and KV only
(R292, U17, log 10). Open. -/
opaque Config.latOnError (cmd : Word) (sv kv : Bool) : Nat

/-- What a key nibble reads as for an index n outside the key array of L nibbles. No rule gives it: with a legal kb the
index is always inside (R150, R170). Open; reachable in no run (log 5). -/
opaque Config.undefinedKeyNibble (n L : Nat) : Nibble

/-- What the round constant table reads as at an index of 48 or more, where it "has no entry" (R248).
Open; reachable in no run (log 6). -/
opaque Config.undefinedRoundConstant (r : Nat) : BitVec 6

end Sys2Proof
end

