-- ==== Sys2Proof/Machine/Tables.lean ====
section
/-! DEFINITION. The default contents of the three constant tables (R14, R50, R51, R52): the spec's own defaults for the
parameters SBOX, MD and RC, which it supplies from general knowledge (D18, log 2). -/

namespace Sys2Proof.Machine

/-- The default S-box (R50). -/
def defaultSBOX : Vector Nibble 16 :=
  #v[0xC, 0x5, 0x6, 0xB, 0x9, 0x0, 0xA, 0xD, 0x3, 0xE, 0xF, 0x8, 0x4, 0x7, 0x1, 0x2]

/-- The default diffusion matrix (R51). -/
def defaultMD : CellMatrix :=
  #v[#v[0x4, 0x1, 0x2, 0x2], #v[0x8, 0x6, 0x5, 0x6], #v[0xB, 0xE, 0xA, 0x9], #v[0x2, 0x2, 0xF, 0xB]]

/-- The default round constants, in index order (R52). -/
def defaultRC : Vector (BitVec 6) 48 :=
  #v[0x01, 0x03, 0x07, 0x0F, 0x1F, 0x3E, 0x3D, 0x3B, 0x37, 0x2F, 0x1E, 0x3C, 0x39, 0x33, 0x27, 0x0E,
     0x1D, 0x3A, 0x35, 0x2B, 0x16, 0x2C, 0x18, 0x30, 0x21, 0x02, 0x05, 0x0B, 0x17, 0x2E, 0x1C, 0x38,
     0x31, 0x23, 0x06, 0x0D, 0x1B, 0x36, 0x2D, 0x1A, 0x34, 0x29, 0x12, 0x24, 0x08, 0x11, 0x22, 0x04]

/-- The default parameters: the published tables and STEP_PORT = true (R14, R15). -/
def defaultConfig : Config :=
  { SBOX := defaultSBOX, MD := defaultMD, RC := defaultRC, STEP_PORT := true }

end Sys2Proof.Machine
end

