-- ==== Sys2Proof/Machine/State.lean ====
section
/-! DEFINITION. The state of LED-CORE, its reset value, and the reasons a step can stop.
The register names are the spec's (10_state.md). -/

namespace Sys2Proof.Machine

/-- The error code register's eight values (R38, R240; log 15). -/
inductive ErrorCode where
  /-- NONE, code 0: the command completed (R251). -/
  | noError
  /-- CONFIG_ERROR, code 1: kb not in {64,128} (R242). -/
  | configError
  /-- BLOCK_LENGTH_ERROR, code 2: BLEN is not 8 (R243). -/
  | blockLengthError
  /-- KEY_LENGTH_ERROR, code 3: KLEN is below kb/8 (R244). -/
  | keyLengthError
  /-- ILLEGAL_COMMAND, code 4: a word that decodes to no command (R241). -/
  | illegalCommand
  /-- KEY_NOT_LOADED, code 5: KV = 0 (R247). -/
  | keyNotLoaded
  /-- STATE_NOT_LOADED, code 6: SV = 0 (R246). -/
  | stateNotLoaded
  /-- RANGE_ERROR, code 7: round index 48 or above (R248). -/
  | rangeError
deriving DecidableEq, Repr

/-- The phases of the round orchestrator; no encoding is specified (R63; log 15). -/
inductive Phase where
  | idle
  | ak
  | ac
  | sc
  | sr
  | mc
  | out
deriving DecidableEq, Repr

/-- The hidden working registers of ENCRYPT (R60-R65). -/
structure Orchestrator where
  /-- Working state matrix (R60). -/
  ES : CellMatrix
  /-- Working key nibbles (R61). -/
  EK : Vector Nibble 32
  /-- Working copy of kb (R62). -/
  EKB : BitVec 8
  /-- Phase (R63). -/
  PH : Phase
  /-- Count of completed rounds (R64). -/
  RND : BitVec 6
  /-- Whitening-step counter (R65). -/
  WS : BitVec 4
deriving DecidableEq, Repr

/-- The matrix whose cells are all 0. -/
def zeroMatrix : CellMatrix := Vector.replicate 4 (Vector.replicate 4 0)

/-- The hidden registers outside a running ENCRYPT (R66). -/
def Orchestrator.idle : Orchestrator :=
  { ES := zeroMatrix, EK := Vector.replicate 32 0, EKB := 0, PH := .idle, RND := 0, WS := 0 }

/-- What the host can do to LED-CORE, one event at a time (R71, R76, R100, R280; log 1). -/
inductive HostEvent where
  /-- Drive DIN_BLOCK; the level stays until it is driven again (`.block V` of R100). -/
  | driveBlock (v : Block)
  /-- Drive DIN_KEY; the level stays until it is driven again (`.key V` of R100). -/
  | driveKey (v : KeyWord)
  /-- Present a command word on CMD and issue it: it samples all three ports (R76). -/
  | issue (w : Word)
  /-- Apply reset: "an event of its own: it is not a command and has no encoding" (R280). -/
  | reset
deriving DecidableEq, Repr

/-- The whole state: the parameters, the registers (R30-R39), the hidden registers of ENCRYPT (R60-R65), and the host's
side, which is input and not LED-CORE state (R67): the driven port levels and what the host will still do. -/
structure State where
  /-- The constant tables and STEP_PORT; no step changes them (R53, R67). -/
  cfg : Config
  /-- Step-port state matrix (R30). -/
  S : CellMatrix
  /-- State valid (R31). -/
  SV : Bool
  /-- Step-port key nibbles (R32). -/
  K : Vector Nibble 32
  /-- keyBits register (R33). -/
  KBR : BitVec 8
  /-- Key valid (R34). -/
  KV : Bool
  /-- Output block register (R35). -/
  DOUT : Block
  /-- Output valid (R36). -/
  OV : Bool
  /-- Multiplier result register (R37). -/
  GFR : Nibble
  /-- Error code of the last command (R38). -/
  ERR : ErrorCode
  /-- Sticky error (R39). -/
  ERRS : Bool
  /-- The hidden registers of ENCRYPT (R60-R65). -/
  enc : Orchestrator
  /-- Level on the DIN_BLOCK port (R71). -/
  DIN_BLOCK : Block
  /-- Level on the DIN_KEY port (R71). -/
  DIN_KEY : KeyWord
  /-- What the host will still do, the next event first (log 1). -/
  events : List HostEvent
deriving DecidableEq, Repr

/-- The reasons a step stops with a fault: none. "There is no stuck state and no undefined outcome. Every 32-bit word,
in every state, gives exactly one next state" (R252; log 8). -/
inductive Fault where
deriving DecidableEq, Repr

/-- The reasons a step is refused. -/
inductive Refusal where
  /-- The instruction has no meaning in the model yet: raised only by an arm of exec that rejects it by name; no arm does.
  Safe: the model would stop where the hardware goes on. -/
  | notModelled (mnemonic : String)
deriving DecidableEq, Repr

/-- The machine right after reset (R280), with the default parameters (R14, R15), ports at 0 (log 4) and a host that does
nothing more (log 1). -/
def State.reset : State :=
  { cfg := defaultConfig
    S := zeroMatrix, SV := false, K := Vector.replicate 32 0, KBR := 0, KV := false
    DOUT := 0, OV := false, GFR := 0, ERR := .noError, ERRS := false
    enc := Orchestrator.idle
    DIN_BLOCK := 0, DIN_KEY := 0, events := [] }

end Sys2Proof.Machine
end

