-- ==== Sys2Proof/Machine/Ops.lean ====
section
/-! DEFINITION. The operations every command shares: the error outcome, the success outcome, the checks before any write,
and the reset event. LED-CORE has no memory (R70) and no return from an error (R253). -/

namespace Sys2Proof.Machine

/-- What one command or event answers. -/
abbrev Result := Host.Outcome State Fault Refusal

/-- The state after a command that ends in error e: `ERR <- e; ERRS <- 1; OV <- 0`, nothing else (R250). -/
def errorState (e : ErrorCode) (s : State) : State :=
  { s with ERR := e, ERRS := true, OV := false }

/-- The error outcome: the command ends in the error state, and control goes nowhere (R250). -/
def raiseError (e : ErrorCode) (s : State) : Result := .next (errorState e s)

/-- `ERR <- 0`, which every command that completes writes (R251). -/
def completedState (s : State) : State := { s with ERR := .noError }

/-- The success outcome of a command that leaves the registers as in s (R251). -/
def complete (s : State) : Result := .next (completedState s)

/-- A command's checks in order, each with the code it reports; the first that fails ends the command on the state s it
began with, and a command whose checks all pass answers `body` (R249, R252). -/
def afterChecks : List (Bool × ErrorCode) → State → Result → Result
  | [], _, body => body
  | (passes, e) :: rest, s, body => if passes then afterChecks rest s body else raiseError e s

/-- The reset event: every register takes its reset value, the constant tables stay (R280). The host's side (ports and
what it will still do) is not LED-CORE state and stays (R67, log 11). -/
def resetRegisters (s : State) : State :=
  { State.reset with cfg := s.cfg, DIN_BLOCK := s.DIN_BLOCK, DIN_KEY := s.DIN_KEY, events := s.events }

end Sys2Proof.Machine
end

