-- ==== Sys2Proof/Machine/Operands.lean ====
section
/-! DEFINITION. Operands: the order of bytes on the ports and of nibbles in bytes, the operand checks, and the lookups in
the key array and the round constant table. -/

namespace Sys2Proof.Machine

/-! ## Nibbles, bytes and ports -/

/-- The matrix whose cell (r, c) is `f r c`. -/
def ofCells (f : Fin 4 → Fin 4 → Nibble) : CellMatrix :=
  Vector.ofFn fun r => Vector.ofFn fun c => f r c

/-- Cell n of a matrix in row-major order, n = 4*r + c (R19). -/
def cellAt (S : CellMatrix) (n : Fin 16) : Nibble := S[n.val / 4][n.val % 4]

/-- `(x >> 4) & 0xF` (R18). -/
def highNibble (x : Byte) : Nibble := x.extractLsb' 4 4

/-- `x & 0xF` (R18). -/
def lowNibble (x : Byte) : Nibble := x.extractLsb' 0 4

/-- Block byte i is `DIN_BLOCK[63-8i : 56-8i]` (R73). -/
def blockBytes (v : Block) : Vector Byte 8 :=
  Vector.ofFn fun i => v.extractLsb' (56 - 8 * i.val) 8

/-- Key byte j is `DIN_KEY[127-8j : 120-8j]`, j in 0..15 (R73). -/
def keyBytes (v : KeyWord) : List Byte :=
  (List.range 16).map fun j => v.extractLsb' (120 - 8 * j) 8

/-- Output byte i is `DOUT[63-8i : 56-8i]` (R73). -/
def blockOfBytes (B : Vector Byte 8) : Block :=
  B[0].setWidth 64 <<< 56 ||| B[1].setWidth 64 <<< 48 ||| B[2].setWidth 64 <<< 40 ||| B[3].setWidth 64 <<< 32 |||
  B[4].setWidth 64 <<< 24 ||| B[5].setWidth 64 <<< 16 ||| B[6].setWidth 64 <<< 8 ||| B[7].setWidth 64

/-! ## Operand checks -/

/-- `kb ∈ {64, 128}` (R9, R242). -/
def keySizeLegal (kb : Nat) : Bool := kb == 64 || kb == 128

/-- `BLEN = 8` (R243). -/
def blockLengthLegal (blen : Nat) : Bool := blen == 8

/-- `KLEN ≥ kb/8` (R244). -/
def keyLengthLegal (kb klen : Nat) : Bool := kb / 8 ≤ klen

/-- `r < 48` (R248). -/
def roundIndexLegal (r : Nat) : Bool := r < 48

/-! ## Lookups -/

/-- `K[n % L]` of a key array (R170). With a legal kb the index is inside the array; outside it no rule gives a value
(log 5). -/
def keyNibble (K : List Nibble) (n L : Nat) : Nibble :=
  if h : 0 < L ∧ n % L < K.length then K[n % L]'h.2 else Config.undefinedKeyNibble n L

/-- `RC[r]` (R52). The table has no entry at 48 or above (R248, log 6). -/
def roundConstant (cfg : Config) (r : Nat) : BitVec 6 :=
  if h : r < 48 then cfg.RC[r] else Config.undefinedRoundConstant r

end Sys2Proof.Machine
end

