-- ==== Sys2Proof/Machine/Flags.lean ====
section
/-! DEFINITION. The error code's bits, the STATUS view and what the host reads on the output ports. -/

namespace Sys2Proof.Machine

/-- The 3-bit code of an error (R240). -/
def ErrorCode.code : ErrorCode → BitVec 3
  | .noError => 0
  | .configError => 1
  | .blockLengthError => 2
  | .keyLengthError => 3
  | .illegalCommand => 4
  | .keyNotLoaded => 5
  | .stateNotLoaded => 6
  | .rangeError => 7

/-- `STATUS = {KBR, 1'b0, ERRS, OV, KV, SV, ERR}`, a view with no storage of its own (R40). -/
def STATUS (s : State) : BitVec 16 :=
  s.KBR.setWidth 16 <<< 8 ||| (BitVec.ofBool s.ERRS).setWidth 16 <<< 6 ||| (BitVec.ofBool s.OV).setWidth 16 <<< 5 |||
  (BitVec.ofBool s.KV).setWidth 16 <<< 4 ||| (BitVec.ofBool s.SV).setWidth 16 <<< 3 ||| s.ERR.code.setWidth 16

/-- The three output ports (R71). -/
structure OutputPorts where
  DOUT : Block
  GFR : Nibble
  STATUS : BitVec 16
deriving DecidableEq, Repr

/-- What the host reads on the output ports. A read changes nothing (R78): it is a function of the state. -/
def outputPorts (s : State) : OutputPorts :=
  { DOUT := s.DOUT, GFR := s.GFR, STATUS := STATUS s }

end Sys2Proof.Machine
end

