-- ==== Sys2Proof/Machine/Codec.lean ====
section
/-! DEFINITION. The state codec and the key schedule, and the commands LOADPT, READOUT and LOADKEY
(41_codec_keyschedule.md). -/

namespace Sys2Proof.Machine

/-- Nibble n of a byte sequence: the high nibble of byte n/2 when n is even, its low nibble when n is odd. A slot beyond
the bytes given is zero-filled (R140, R150, R151; log 9). -/
def nibbleOf (bytes : List Byte) (n : Nat) : Nibble :=
  if n % 2 = 0 then highNibble (bytes.getD (n / 2) 0) else lowNibble (bytes.getD (n / 2) 0)

/-- Fill the matrix row-major, two nibbles per byte, high nibble first: `S[r][c] = nibble (4r + c)` (R140). -/
def pack (B : Vector Byte 8) : CellMatrix :=
  ofCells fun r c => nibbleOf B.toList (4 * r.val + c.val)

/-- The exact inverse of pack: byte i is `(S[2i/4][2i%4] << 4) | S[(2i+1)/4][(2i+1)%4]` (R141). -/
def unpack (S : CellMatrix) : Vector Byte 8 :=
  Vector.ofFn fun i =>
    (cellAt S ⟨2 * i.val, by omega⟩).setWidth 8 <<< 4 ||| (cellAt S ⟨2 * i.val + 1, by omega⟩).setWidth 8

/-- The key nibble array of kb/4 nibbles (R150). -/
def deriveKeyNibbles (bytes : List Byte) (kb : Nat) : List Nibble :=
  (List.range (kb / 4)).map (nibbleOf bytes)

/-- A key nibble array in a 32-cell register: the cells it leaves unused are 0 (R151, R152, R213). -/
def keyRegister (N : List Nibble) : Vector Nibble 32 :=
  Vector.ofFn fun i => N.getD i.val 0

/-- LOADPT: `S <- pack(DIN_BLOCK); SV <- 1; ERR <- 0` if BLEN = 8 (R142). -/
def execLoadpt (blen : BitVec 4) (s : State) : Result :=
  afterChecks [(blockLengthLegal blen.toNat, .blockLengthError)] s <|
    complete { s with S := pack (blockBytes s.DIN_BLOCK), SV := true }

/-- READOUT: `DOUT <- unpack(S); OV <- 1; ERR <- 0` if SV = 1 (R143). -/
def execReadout (s : State) : Result :=
  afterChecks [(s.SV, .stateNotLoaded)] s <|
    complete { s with DOUT := blockOfBytes (unpack s.S), OV := true }

/-- LOADKEY: derive the key nibbles, zero the unused cells, `KBR <- kb; KV <- 1; ERR <- 0` if kb is legal and KLEN is at
least kb/8 (R152). -/
def execLoadkey (kb : BitVec 8) (klen : BitVec 5) (s : State) : Result :=
  afterChecks [(keySizeLegal kb.toNat, .configError), (keyLengthLegal kb.toNat klen.toNat, .keyLengthError)] s <|
    complete { s with
      K := keyRegister (deriveKeyNibbles (keyBytes s.DIN_KEY) kb.toNat), KBR := kb, KV := true }

end Sys2Proof.Machine
end

