-- ==== Sys2Proof/Machine/Gf16.lean ====
section
/-! DEFINITION. The GF(2^4) multiplier and the GFMUL command (40_gf16.md). -/

namespace Sys2Proof.Machine

/-- The doubling step: shift left, masked to 4 bits, and XOR the reduction constant if the pre-shift high bit was 1
(R120, R122). -/
def xtime (x : Nibble) : Nibble :=
  if x[3] then (x <<< 1) ^^^ 0b0011 else x <<< 1

/-- The multiplier's loop from bit i of b on, for n more bits: accumulate, then double (R120). -/
def gfmulLoop : (n i : Nat) → (acc x b : Nibble) → Nibble
  | 0, _, acc, _, _ => acc
  | n + 1, i, acc, x, b => gfmulLoop n (i + 1) (if b.getLsbD i then acc ^^^ x else acc) (xtime x) b

/-- The product of two nibbles in GF(2^4) modulo x^4+x+1 (R120). -/
def gfmul (a b : Nibble) : Nibble := gfmulLoop 4 0 0 a b

/-- GFMUL: `GFR <- gfmul(A, B); ERR <- 0` (R125). -/
def execGfmul (a b : Nibble) (s : State) : Result :=
  complete { s with GFR := gfmul a b }

end Sys2Proof.Machine
end

