-- ==== Sys2Proof/Machine/Layers.lean ====
section
/-! DEFINITION. Key whitening and the four round layers, and the commands that expose them (42_round_layers.md). -/

namespace Sys2Proof.Machine

/-! ## The state functions -/

/-- XOR the key nibble `K[(4i + j + 16 step) % L]`, L = kb/4, into each cell (i, j) (R170). The index is computed at full
width. -/
def addKey (S : CellMatrix) (K : List Nibble) (step : Nat) (kb : BitVec 8) : CellMatrix :=
  ofCells fun i j => S[i][j] ^^^ keyNibble K (4 * i.val + j.val + step * 16) (kb.toNat / 4)

/-- `S[r][c] <- S[r][c] XOR v`. -/
def xorCell (r c : Fin 4) (v : Nibble) (S : CellMatrix) : CellMatrix :=
  S.set r (S[r].set c (S[r][c] ^^^ v))

/-- The eleven XORs of addConstants, in the order of R180: row tags, key-size binding, round constant (C1). -/
def addConstants (cfg : Config) (S : CellMatrix) (r : Nat) (kb : BitVec 8) : CellMatrix :=
  let rc := roundConstant cfg r
  let hi3 : Nibble := ((rc >>> 3) &&& 7).setWidth 4
  let lo3 : Nibble := (rc &&& 7).setWidth 4
  S |> xorCell 1 0 1
    |> xorCell 2 0 2
    |> xorCell 3 0 3
    |> xorCell 0 0 (highNibble kb)
    |> xorCell 1 0 (highNibble kb)
    |> xorCell 2 0 (lowNibble kb)
    |> xorCell 3 0 (lowNibble kb)
    |> xorCell 0 1 hi3
    |> xorCell 2 1 hi3
    |> xorCell 1 1 lo3
    |> xorCell 3 1 lo3

/-- Replace each cell with its S-box image (R190). -/
def subCells (cfg : Config) (S : CellMatrix) : CellMatrix :=
  ofCells fun r c => cfg.SBOX[S[r][c].toFin]

/-- Rotate row r left by r positions: `S'[r][c] = S[r][(c + r) % 4]` (R195). Addition on Fin 4 is modulo 4. -/
def shiftRows (S : CellMatrix) : CellMatrix :=
  ofCells fun r c => S[r][c + r]

/-- Multiply each column by the diffusion matrix over GF(2^4), from the original column values (R200). -/
def mixColumns (cfg : Config) (S : CellMatrix) : CellMatrix :=
  ofCells fun i j =>
    gfmul cfg.MD[i][0] S[0][j] ^^^ gfmul cfg.MD[i][1] S[1][j] ^^^
    gfmul cfg.MD[i][2] S[2][j] ^^^ gfmul cfg.MD[i][3] S[3][j]

/-! ## The commands -/

/-- ADDKEY: `S <- addKey(S, K, IDX, KBR); ERR <- 0` if SV = 1 and KV = 1 (R171). -/
def execAddkey (step : BitVec 6) (s : State) : Result :=
  afterChecks [(s.SV, .stateNotLoaded), (s.KV, .keyNotLoaded)] s <|
    complete { s with S := addKey s.S s.K.toList step.toNat s.KBR }

/-- ADDCONST: `S <- addConstants(S, IDX, KBR); ERR <- 0` if SV = 1, KV = 1 and IDX < 48 (R181). -/
def execAddconst (r : BitVec 6) (s : State) : Result :=
  afterChecks [(s.SV, .stateNotLoaded), (s.KV, .keyNotLoaded), (roundIndexLegal r.toNat, .rangeError)] s <|
    complete { s with S := addConstants s.cfg s.S r.toNat s.KBR }

/-- SUBCELLS: `S <- subCells(S); ERR <- 0` if SV = 1 (R191). -/
def execSubcells (s : State) : Result :=
  afterChecks [(s.SV, .stateNotLoaded)] s <| complete { s with S := subCells s.cfg s.S }

/-- SHIFTROWS: `S <- shiftRows(S); ERR <- 0` if SV = 1 (R196). -/
def execShiftrows (s : State) : Result :=
  afterChecks [(s.SV, .stateNotLoaded)] s <| complete { s with S := shiftRows s.S }

/-- MIXCOL: `S <- mixColumns(S); ERR <- 0` if SV = 1 (R201). -/
def execMixcol (s : State) : Result :=
  afterChecks [(s.SV, .stateNotLoaded)] s <| complete { s with S := mixColumns s.cfg s.S }

end Sys2Proof.Machine
end

