-- ==== Sys2Proof/Machine/Encrypt.lean ====
section
/-! DEFINITION. The round orchestrator: the pure function encryptFn, the document's Encrypt operation, the state machine on
the hidden registers, and the ENCRYPT command, which runs that machine to its end as one atomic step
(43_orchestrator.md). -/

namespace Sys2Proof.Machine

/-! ## Round counts -/

/-- `RN = 48 if kb > 64 else 32` (R11). -/
def roundCount (kb : Nat) : Nat := if kb > 64 then 48 else 32

/-- `G = RN / 4` (R11). -/
def groupCount (kb : Nat) : Nat := roundCount kb / 4

/-! ## The pure function -/

/-- One round: addConstants, subCells, shiftRows, mixColumns, in that fixed order (R212). -/
def roundFn (cfg : Config) (kb : BitVec 8) (r : Nat) (S : CellMatrix) : CellMatrix :=
  mixColumns cfg (shiftRows (subCells cfg (addConstants cfg S r kb)))

/-- One round group: four rounds, then the whitening of step group + 1 (R210). -/
def groupFn (cfg : Config) (K : List Nibble) (kb : BitVec 8) (S : CellMatrix) (group : Nat) : CellMatrix :=
  addKey ((List.range 4).foldl (fun T sub => roundFn cfg kb (group * 4 + sub) T) S) K (group + 1) kb

/-- The whole encryption as a pure function of the block, the key bytes and kb (R210). -/
def encryptFn (cfg : Config) (block : Vector Byte 8) (bytes : List Byte) (kb : BitVec 8) : Vector Byte 8 :=
  let K := deriveKeyNibbles bytes kb.toNat
  let S := addKey (pack block) K 0 kb
  unpack ((List.range (groupCount kb.toNat)).foldl (groupFn cfg K kb) S)

/-- The document's one external operation, `Encrypt(block, key, keyBits) -> 8 bytes`, with its configuration and validation
errors, each rejected before any computation (R3, R71, R242-R244; in the order of R249; log 16). -/
def encryptOperation (cfg : Config) (block key : List Byte) (keyBits : Nat) : Except ErrorCode (Vector Byte 8) :=
  if keySizeLegal keyBits = false then .error .configError
  else if h : block.length = 8 then
    if keyLengthLegal keyBits key.length = false then .error .keyLengthError
    else .ok (encryptFn cfg ⟨block.toArray, by simpa using h⟩ key (BitVec.ofNat 8 keyBits))
  else .error .blockLengthError

/-! ## The state machine -/

/-- Start: the packed block, the key register, kb, the counters at 0, phase AK (R213). -/
def startOrchestrator (block : Vector Byte 8) (bytes : List Byte) (kb : BitVec 8) : Orchestrator :=
  { ES := pack block, EK := keyRegister (deriveKeyNibbles bytes kb.toNat), EKB := kb
    RND := 0, WS := 0, PH := .ak }

/-- Phase AK: whitening; OUT when all rounds are done, else AC (R214). -/
def phaseAK (o : Orchestrator) : Orchestrator :=
  { o with
    ES := addKey o.ES o.EK.toList o.WS.toNat o.EKB
    PH := if o.RND.toNat = roundCount o.EKB.toNat then .out else .ac }

/-- Phase AC: `ES <- addConstants(ES, RND, EKB); PH <- SC` (R215). -/
def phaseAC (cfg : Config) (o : Orchestrator) : Orchestrator :=
  { o with ES := addConstants cfg o.ES o.RND.toNat o.EKB, PH := .sc }

/-- Phase SC: `ES <- subCells(ES); PH <- SR` (R216). -/
def phaseSC (cfg : Config) (o : Orchestrator) : Orchestrator :=
  { o with ES := subCells cfg o.ES, PH := .sr }

/-- Phase SR: `ES <- shiftRows(ES); PH <- MC` (R217). -/
def phaseSR (o : Orchestrator) : Orchestrator :=
  { o with ES := shiftRows o.ES, PH := .mc }

/-- Phase MC: mixColumns, count the round, and after the fourth round of a group the next whitening (R218). -/
def phaseMC (cfg : Config) (o : Orchestrator) : Orchestrator :=
  let rnd := o.RND + 1
  if rnd.toNat % 4 = 0 then
    { o with ES := mixColumns cfg o.ES, RND := rnd, WS := o.WS + 1, PH := .ak }
  else
    { o with ES := mixColumns cfg o.ES, RND := rnd, PH := .ac }

/-- Phase OUT: write the result, OV and ERR, and clear the hidden registers (R219). -/
def phaseOUT (s : State) : State :=
  { s with DOUT := blockOfBytes (unpack s.enc.ES), OV := true, ERR := .noError, enc := Orchestrator.idle }

/-- One transition of the orchestrator (R214-R219). An idle orchestrator makes none. -/
def orchestratorStep (s : State) : State :=
  match s.enc.PH with
  | .idle => s
  | .ak => { s with enc := phaseAK s.enc }
  | .ac => { s with enc := phaseAC s.cfg s.enc }
  | .sc => { s with enc := phaseSC s.cfg s.enc }
  | .sr => { s with enc := phaseSR s.enc }
  | .mc => { s with enc := phaseMC s.cfg s.enc }
  | .out => phaseOUT s

/-- n transitions of the orchestrator. -/
def runOrchestrator : Nat → State → State
  | 0, s => s
  | n + 1, s => runOrchestrator n (orchestratorStep s)

/-- From its start the machine makes `1 + 17*G` layer transitions and one OUT transition (R221). -/
def transitionCount (kb : Nat) : Nat := 1 + 17 * groupCount kb + 1

/-! ## The command -/

/-- ENCRYPT: with its checks passed, start the orchestrator on the sampled ports and run it to its end, all in one atomic
transaction (R220, R213-R219, R77; log 7). -/
def execEncrypt (kb : BitVec 8) (blen : BitVec 4) (klen : BitVec 5) (s : State) : Result :=
  afterChecks [(keySizeLegal kb.toNat, .configError), (blockLengthLegal blen.toNat, .blockLengthError),
      (keyLengthLegal kb.toNat klen.toNat, .keyLengthError)] s <|
    .next <| runOrchestrator (transitionCount kb.toNat)
      { s with enc := startOrchestrator (blockBytes s.DIN_BLOCK) (keyBytes s.DIN_KEY) kb }

end Sys2Proof.Machine
end

