-- ==== Sys2Proof/Machine/Dispatch.lean ====
section
/-! DEFINITION. One arm per command: the meaning of each. -/

namespace Sys2Proof.Machine

def exec (i : Instr) (s : State) : Host.Outcome State Fault Refusal :=
  match i with
  | .gfmul a b => Sys2Proof.Machine.execGfmul a b s
  | .loadpt blen => Sys2Proof.Machine.execLoadpt blen s
  | .loadkey kb klen => Sys2Proof.Machine.execLoadkey kb klen s
  | .addkey step => Sys2Proof.Machine.execAddkey step s
  | .addconst r => Sys2Proof.Machine.execAddconst r s
  | .subcells => Sys2Proof.Machine.execSubcells s
  | .shiftrows => Sys2Proof.Machine.execShiftrows s
  | .mixcol => Sys2Proof.Machine.execMixcol s
  | .readout => Sys2Proof.Machine.execReadout s
  | .encrypt kb blen klen => Sys2Proof.Machine.execEncrypt kb blen klen s

end Sys2Proof.Machine
end

