-- ==== Sys2Proof/Machine/Issue.lean ====
section
/-! DEFINITION. Issuing a command word, what each host event does, and running a list of commands in order. -/

namespace Sys2Proof.Machine

/-- The step of LED-CORE on one command word, with the ports at their levels in s: an illegal word ends in
ILLEGAL_COMMAND, and any other runs its command (R252, R241). -/
def issue (w : Word) (s : State) : Result :=
  match decode s.cfg.STEP_PORT w with
  | .error _ => raiseError .illegalCommand s
  | .ok i => exec i s

/-- What one host event does (R71, R76, R100, R280). -/
def applyEvent (e : HostEvent) (s : State) : Result :=
  match e with
  | .driveBlock v => .next { s with DIN_BLOCK := v }
  | .driveKey v => .next { s with DIN_KEY := v }
  | .issue w => issue w s
  | .reset => .next (resetRegisters s)

/-- The host's next event happens, if there is one; without one LED-CORE idles and keeps all its state (R261, R280). -/
def nextEvent (s : State) : Result :=
  match s.events with
  | [] => .next s
  | e :: rest => applyEvent e { s with events := rest }

/-- Commands one after another, each reading the state that all earlier ones left (R81). -/
def execAll : List Instr → State → Result
  | [], s => .next s
  | i :: is, s =>
    match exec i s with
    | .next t => execAll is t
    | .fault r => .fault r
    | .refused r => .refused r

end Sys2Proof.Machine
end

