-- ==== Sys2Proof/Machine/Step.lean ====
section
/-! DEFINITION. One step of the machine, and where its next instruction comes from. -/

namespace Sys2Proof.Machine

/-- One step: the host's next event (R81, R261). -/
def step (s : State) : Host.Outcome State Fault Refusal := nextEvent s

/-- s with a command word as the host's very next event: LED-CORE fetches nothing, so a command runs because the host
issues it (R42, R71, log 1). Bits above nbits are 0. -/
def State.withFetchWord (s : State) (nbits w : Nat) : State :=
  { s with events := .issue (BitVec.ofNat 32 (w % 2 ^ nbits)) :: s.events }

end Sys2Proof.Machine
end

