-- ==== Sys2Proof/Machine/Assembler.lean ====
section
/-! DEFINITION. The assembler's text form (R99), the host directives (R100) and the pseudo-instructions (R101). An
assembled line is what the host does: it drives a port or issues command words. -/

namespace Sys2Proof.Machine

/-! ## Pseudo-instructions (R101) -/

/-- `round r`: `addconst r; subcells; shiftrows; mixcol`. -/
def roundCommands (r : Nat) : List Instr :=
  [.addconst (BitVec.ofNat 6 r), .subcells, .shiftrows, .mixcol]

/-- `group g`: rounds 4g to 4g+3, then `addkey g+1`. -/
def groupCommands (g : Nat) : List Instr :=
  roundCommands (4 * g) ++ roundCommands (4 * g + 1) ++ roundCommands (4 * g + 2) ++ roundCommands (4 * g + 3) ++
    [.addkey (BitVec.ofNat 6 (g + 1))]

/-- Groups 0 to n - 1, in order. -/
def groupsCommands (n : Nat) : List Instr := (List.range n).flatMap groupCommands

/-- `stepenc64`: LED-64 one layer per command. -/
def stepenc64 : List Instr :=
  [.loadpt 8, .loadkey 64 8, .addkey 0] ++ groupsCommands 8 ++ [.readout]

/-- `stepenc128`: LED-128 one layer per command. -/
def stepenc128 : List Instr :=
  [.loadpt 8, .loadkey 128 16, .addkey 0] ++ groupsCommands 12 ++ [.readout]

/-! ## Operands -/

/-- An operand as written: its value, and for a `0x`-prefixed one its count of digits. -/
structure AsmNumber where
  value : Nat
  hexDigits : Option Nat
deriving DecidableEq, Repr

/-- The value of a hexadecimal digit. -/
def digitValue (c : Char) : Option Nat :=
  let n := c.toNat
  if 48 ≤ n ∧ n ≤ 57 then some (n - 48)
  else if 97 ≤ n ∧ n ≤ 102 then some (n - 87)
  else if 65 ≤ n ∧ n ≤ 70 then some (n - 55)
  else none

/-- The value of a string of digits after the value acc of those before it. -/
def digitsValue (base : Nat) : (acc : Nat) → List Char → Option Nat
  | acc, [] => some acc
  | acc, c :: cs =>
    match digitValue c with
    | some d => if d < base then digitsValue base (acc * base + d) cs else none
    | none => none

/-- "An operand is a decimal or `0x`-prefixed hexadecimal integer" (R99). -/
def parseNumber : List Char → Option AsmNumber
  | [] => none
  | '0' :: 'x' :: d :: ds => (digitsValue 16 0 (d :: ds)).map fun v => ⟨v, some (ds.length + 1)⟩
  | d :: ds => (digitsValue 10 0 (d :: ds)).map fun v => ⟨v, none⟩

/-- A space or a tab. -/
def isBlank (c : Char) : Bool := c == ' ' || c == '\t'

/-- The text without blanks at its two ends. -/
def trimBlanks (cs : List Char) : List Char :=
  ((cs.dropWhile isBlank).reverse.dropWhile isBlank).reverse

/-- Operands separated by commas (R99); no text is no operand. -/
def parseOperands (cs : List Char) : Option (List AsmNumber) :=
  if cs = [] then some [] else (cs.splitOn ',').mapM fun part => parseNumber (trimBlanks part)

/-- The operand as a field of w bits; "the assembler rejects an operand that does not fit its field" (R99). -/
def fitField (w : Nat) (x : AsmNumber) : Option (BitVec w) :=
  if x.value < 2 ^ w then some (BitVec.ofNat w x.value) else none

/-! ## Lines -/

/-- The words a line can begin with: the ten commands, the pseudo-instructions with names of their own, and the two host
directives. -/
inductive AsmName where
  | gfmul | loadpt | loadkey | addkey | addconst | subcells | shiftrows | mixcol | readout | encrypt
  | loadkey64 | loadkey128 | encrypt64 | encrypt128 | round | group | stepenc64 | stepenc128
  | block | key
deriving DecidableEq, Repr

/-- How each is written (R99, R100, R101). -/
def asmSpellings : List (String × AsmName) := [
  ("gfmul", .gfmul),
  ("loadpt", .loadpt),
  ("loadkey", .loadkey),
  ("addkey", .addkey),
  ("addconst", .addconst),
  ("subcells", .subcells),
  ("shiftrows", .shiftrows),
  ("mixcol", .mixcol),
  ("readout", .readout),
  ("encrypt", .encrypt),
  ("loadkey64", .loadkey64),
  ("loadkey128", .loadkey128),
  ("encrypt64", .encrypt64),
  ("encrypt128", .encrypt128),
  ("round", .round),
  ("group", .group),
  ("stepenc64", .stepenc64),
  ("stepenc128", .stepenc128),
  (".block", .block),
  (".key", .key)]

/-- The host issues these commands, one after another. -/
def issueAll (is : List Instr) : List HostEvent := is.map fun i => .issue (encode i)

/-- The DIN_KEY value of a `.key` operand: 16 bytes as written, and a hexadecimal operand of fewer digits left-aligned,
byte 0 in the high byte (R100, R73; log 13). -/
def keyOperand (x : AsmNumber) : Option KeyWord :=
  match x.hexDigits with
  | some n => if n ≤ 32 then some (BitVec.ofNat 128 (x.value <<< (128 - 4 * n))) else fitField 128 x
  | none => fitField 128 x

/-- What the host does for a line's name and operands; none where the assembler rejects the line. -/
def assembleNamed : AsmName → List AsmNumber → Option (List HostEvent)
  | .gfmul, [a, b] => do return issueAll [.gfmul (← fitField 4 a) (← fitField 4 b)]
  | .loadpt, [] => some (issueAll [.loadpt 8])
  | .loadpt, [blen] => do return issueAll [.loadpt (← fitField 4 blen)]
  | .loadkey, [kb, klen] => do return issueAll [.loadkey (← fitField 8 kb) (← fitField 5 klen)]
  | .addkey, [step] => do return issueAll [.addkey (← fitField 6 step)]
  | .addconst, [r] => do return issueAll [.addconst (← fitField 6 r)]
  | .subcells, [] => some (issueAll [.subcells])
  | .shiftrows, [] => some (issueAll [.shiftrows])
  | .mixcol, [] => some (issueAll [.mixcol])
  | .readout, [] => some (issueAll [.readout])
  | .encrypt, [kb, blen, klen] => do
    return issueAll [.encrypt (← fitField 8 kb) (← fitField 4 blen) (← fitField 5 klen)]
  | .loadkey64, [] => some (issueAll [.loadkey 64 8])
  | .loadkey128, [] => some (issueAll [.loadkey 128 16])
  | .encrypt64, [] => some (issueAll [.encrypt 64 8 8])
  | .encrypt128, [] => some (issueAll [.encrypt 128 8 16])
  | .round, [r] => if r.value < 48 then some (issueAll (roundCommands r.value)) else none
  | .group, [g] => if g.value < 12 then some (issueAll (groupCommands g.value)) else none
  | .stepenc64, [] => some (issueAll Machine.stepenc64)
  | .stepenc128, [] => some (issueAll Machine.stepenc128)
  | .block, [v] => do return [.driveBlock (← fitField 64 v)]
  | .key, [v] => do return [.driveKey (← keyOperand v)]
  | _, _ => none

/-- One line: a name, its operands, and a comment that starts with `;` (R99). A line with no name does nothing. -/
def assembleLine (line : List Char) : Option (List HostEvent) :=
  let body := trimBlanks (line.takeWhile fun c => c != ';')
  let name := body.takeWhile fun c => !isBlank c
  if name = [] then some []
  else do
    let (_, n) ← asmSpellings.find? fun row => row.1.toList == name
    assembleNamed n (← parseOperands (trimBlanks (body.dropWhile fun c => !isBlank c)))

/-- A text of lines, in order. -/
def assembleChars (text : List Char) : Option (List HostEvent) :=
  ((text.splitOn '\n').mapM assembleLine).map List.flatten

/-- A text of lines, in order. -/
def assemble (text : String) : Option (List HostEvent) := assembleChars text.toList

end Sys2Proof.Machine
end

