-- ==== Sys2Proof/Machine/Timing.lean ====
section
/-! DEFINITION. The latency of an issued command, a view that no step reads (R16, R292, R293; log 10). -/

namespace Sys2Proof.Machine

/-- The kb that a command's latency may depend on: ENCRYPT's only (R16). -/
def latencyKb (w : Word) : Option (BitVec 8) :=
  if fieldOP w = 0xA then some (fieldKB w) else none

/-- How long issuing the word w in the state s takes: `LAT(op, kb)` when the command completes, and when it ends in an
error a time that the command word, SV and KV fix (R292, U17). -/
def latency (w : Word) (s : State) : Nat :=
  match issue w s with
  | .next t => if t.ERR = .noError then Config.lat (fieldOP w) (latencyKb w) else Config.latOnError w s.SV s.KV
  | .fault _ => Config.latOnError w s.SV s.KV
  | .refused _ => Config.latOnError w s.SV s.KV

end Sys2Proof.Machine
end

