-- ==== Sys2Proof/Safety.lean ====
section
/-! DEFINITION. What holds of every state the host can reach, which words are illegal and which error a word reports, in
the terms the statements use. These are written from the spec's lists, apart from the decoder and the meanings. -/

namespace Sys2Proof.Machine

/-- What the rules make true of every state the host can reach from reset. -/
structure State.Inv (s : State) : Prop where
  /-- SBOX holds each nibble exactly once (R50). -/
  sbox : s.cfg.sboxIsPermutation = true
  /-- SV = 0 only while no LOADPT has completed, and then S is as at reset (R30, R31). -/
  stateUnloaded : s.SV = false → s.S = zeroMatrix
  /-- KV = 0 only while no LOADKEY has completed, and then K and KBR are as at reset (R32-R34). -/
  keyUnloaded : s.KV = false → s.KBR = 0 ∧ s.K = Vector.replicate 32 0
  /-- "Whenever KV = 1, KBR is 64 or 128" (R34). -/
  keySize : s.KV = true → s.KBR = 64 ∨ s.KBR = 128
  /-- When KBR = 64, K[16..31] are 0 (R32, R152). -/
  unusedKey : s.KBR = 64 → ∀ i : Fin 32, 16 ≤ i.val → s.K[i] = 0
  /-- OV = 1 means that no error has happened since the result was written, so the last command had none (R36). -/
  outputValid : s.OV = true → s.ERR = .noError
  /-- An error sets ERRS, and only reset clears it (R39). -/
  sticky : s.ERR ≠ .noError → s.ERRS = true
  /-- Outside a running ENCRYPT the hidden registers are clear (R66). -/
  hidden : s.enc = Orchestrator.idle

/-- The bits that each opcode's format marks 0, OP's own bits apart (R94). -/
def formatZeroBits : List (BitVec 4 × Word) := [
  (0x1, 0xFFFFF000),
  (0x2, 0xFFFF0FF0),
  (0x3, 0xFFE0F000),
  (0x4, 0xF81FFFF0),
  (0x5, 0xF81FFFF0),
  (0x6, 0xFFFFFFF0),
  (0x7, 0xFFFFFFF0),
  (0x8, 0xFFFFFFF0),
  (0x9, 0xFFFFFFF0),
  (0xA, 0xFFE00000)]

/-- The three ways a word is illegal (R97). -/
abbrev illegalWord (stepPort : Bool) (w : Word) : Prop :=
  (fieldOP w = 0x0 ∨ 0xB ≤ (fieldOP w).toNat) ∨
  (stepPort = false ∧ fieldOP w ≠ 0xA) ∨
  (∃ row ∈ formatZeroBits, fieldOP w = row.1 ∧ w &&& row.2 ≠ 0)

/-- The error that the word w reports in the state s: the first check that fails, in the order of R249, each check made by
the commands that R240 lists for it. -/
def firstError (w : Word) (s : State) : ErrorCode :=
  let kb := (fieldKB w).toNat
  if illegalWord s.cfg.STEP_PORT w then .illegalCommand
  else if fieldOP w ∈ [0x3, 0xA] ∧ kb ≠ 64 ∧ kb ≠ 128 then .configError
  else if fieldOP w ∈ [0x2, 0xA] ∧ fieldBLEN w ≠ 8 then .blockLengthError
  else if fieldOP w ∈ [0x3, 0xA] ∧ (fieldKLEN w).toNat < kb / 8 then .keyLengthError
  else if fieldOP w ∈ [0x4, 0x5, 0x6, 0x7, 0x8, 0x9] ∧ s.SV = false then .stateNotLoaded
  else if fieldOP w ∈ [0x4, 0x5] ∧ s.KV = false then .keyNotLoaded
  else if fieldOP w = 0x5 ∧ 48 ≤ (fieldIDX w).toNat then .rangeError
  else .noError

/-- The next n steps from s all answer a next state, and t is the last of them. -/
abbrev runsTo (n : Nat) (s t : State) : Prop := Host.Core.run Sys2Proof.core n s = .next t

end Sys2Proof.Machine
end

