-- ==== Sys2Proof/Certificates/Slice0/Obligations.lean ====
section
/-! DEFINITION. The statements for the provers. -/

open Sys2Proof Sys2Proof.Machine

/-! ## Decoding and encoding -/

/-- Every command the implementation has is read back from its own word, with every operand. -/
def Obligations.DecodeOfEncode : Prop :=
  ∀ (stepPort : Bool) (i : Instr), i.wellFormed stepPort = true → decode stepPort (encode i) = .ok i

/-- Every legal word is the word of the command it decodes to: no bit of a legal word is dropped. -/
def Obligations.EncodeOfDecode : Prop :=
  ∀ (stepPort : Bool) (w : Word) (i : Instr),
    decode stepPort w = .ok i → encode i = w ∧ i.wellFormed stepPort = true

/-- A word decodes to no command exactly when one of R97's three conditions holds, and only such a word raises
ILLEGAL_COMMAND. -/
def Obligations.IllegalWordsAreThoseOfTheThreeKinds : Prop :=
  ∀ (stepPort : Bool) (w : Word),
    ((∃ why, decode stepPort w = .error why) ↔
      ((fieldOP w = 0x0 ∨ 0xB ≤ (fieldOP w).toNat) ∨
       (stepPort = false ∧ fieldOP w ≠ 0xA) ∨
       (∃ row ∈ formatZeroBits, fieldOP w = row.1 ∧ w &&& row.2 ≠ 0))) ∧
    (∀ s t : State, s.cfg.STEP_PORT = stepPort → issue w s = .next t →
      (t.ERR = .illegalCommand ↔ ∃ why, decode stepPort w = .error why))

/-- The match and mask pairs of the opcode table do not overlap.
The spec's own inference: "The match/mask pairs of rule R95 do not overlap" (R96). -/
def Obligations.OpcodeRowsDoNotOverlap : Prop :=
  opTable.Pairwise fun a b => ∀ w : Word, ¬ (w &&& a.mask = a.matchWord ∧ w &&& b.mask = b.matchWord)

/-- Words written out from the patterns of R95 decode to the commands they stand for. -/
def Obligations.DecodeOfWrittenWords : Prop :=
  decode true 0b00000000000000000000111010010001 = .ok (.gfmul 0x9 0xE) ∧
  decode true 0b00000000000000001000000000000010 = .ok (.loadpt 8) ∧
  decode true 0b00000000000100000000100000000011 = .ok (.loadkey 128 16) ∧
  decode true 0b00000001101000000000000000000100 = .ok (.addkey 13) ∧
  decode true 0b00000101111000000000000000000101 = .ok (.addconst 47) ∧
  decode true 0b00000000000000000000000000000110 = .ok .subcells ∧
  decode true 0b00000000000000000000000000000111 = .ok .shiftrows ∧
  decode true 0b00000000000000000000000000001000 = .ok .mixcol ∧
  decode true 0b00000000000000000000000000001001 = .ok .readout ∧
  decode true 0b00000000000010001000010000001010 = .ok (.encrypt 64 8 8)

/-! ## The step -/

/-- When the host's next event issues a word that decodes to i, the step is exec of i at the state without that event. -/
def Obligations.StepRunsTheDecodedCommand : Prop :=
  ∀ (s : State) (w : Word) (rest : List HostEvent) (i : Instr),
    s.events = .issue w :: rest → decode s.cfg.STEP_PORT w = .ok i →
      step s = exec i { s with events := rest }

/-- An illegal word ends in ILLEGAL_COMMAND (code 4) in every state, and nothing but ERR, ERRS and OV changes. -/
def Obligations.IllegalWordRaisesIllegalCommand : Prop :=
  ErrorCode.illegalCommand.code = 4 ∧
  ∀ (s : State) (w : Word) (rest : List HostEvent),
    s.events = .issue w :: rest →
    ((fieldOP w = 0x0 ∨ 0xB ≤ (fieldOP w).toNat) ∨
     (∃ row ∈ formatZeroBits, fieldOP w = row.1 ∧ w &&& row.2 ≠ 0) ∨
     (s.cfg.STEP_PORT = false ∧ fieldOP w ≠ 0xA)) →
      step s = .next { s with events := rest, ERR := .illegalCommand, ERRS := true, OV := false }

/-- Every event, in every state, gives a next state: no step faults and none is refused.
The spec's own inference: "Every 32-bit word, in every state, gives exactly one next state" (R252). -/
def Obligations.EveryStepAnswersANextState : Prop :=
  (∀ (w : Word) (s : State), ∃ t, issue w s = .next t) ∧ ∀ s : State, ∃ t, step s = .next t

/-- Without an event LED-CORE idles and keeps all its state. -/
def Obligations.IdleKeepsAllState : Prop :=
  ∀ s : State, s.events = [] → step s = .next s

/-- A host directive drives its port and changes no LED-CORE state. -/
def Obligations.DirectivesOnlyDriveTheirPort : Prop :=
  (∀ (s : State) (v : Block) (rest : List HostEvent), s.events = .driveBlock v :: rest →
    step s = .next { s with events := rest, DIN_BLOCK := v }) ∧
  (∀ (s : State) (v : KeyWord) (rest : List HostEvent), s.events = .driveKey v :: rest →
    step s = .next { s with events := rest, DIN_KEY := v })

/-- The reset event sets every register to its reset value, STATUS reads 0 after it, and the constant tables stay. -/
def Obligations.ResetSetsEveryRegister : Prop :=
  ∀ (s : State) (rest : List HostEvent), s.events = .reset :: rest →
    ∃ t, step s = .next t ∧
      (∀ r c : Fin 4, t.S[r][c] = 0 ∧ t.enc.ES[r][c] = 0) ∧
      (∀ i : Fin 32, t.K[i] = 0 ∧ t.enc.EK[i] = 0) ∧
      t.SV = false ∧ t.KBR = 0 ∧ t.KV = false ∧ t.DOUT = 0 ∧ t.OV = false ∧ t.GFR = 0 ∧
      t.ERR.code = 0 ∧ t.ERRS = false ∧
      t.enc.EKB = 0 ∧ t.enc.RND = 0 ∧ t.enc.WS = 0 ∧ t.enc.PH = .idle ∧
      STATUS t = 0x0000 ∧ t.cfg = s.cfg

/-- The reset event leaves the port levels and the host's later events as they were: the model's choice (log 11), resting
on the spec's "inputs, not state" (R67). -/
def Obligations.ResetKeepsTheHostSide : Prop :=
  ∀ (s : State) (rest : List HostEvent), s.events = .reset :: rest →
    ∃ t, step s = .next t ∧ t.DIN_BLOCK = s.DIN_BLOCK ∧ t.DIN_KEY = s.DIN_KEY ∧ t.events = rest

/-! ## Errors -/

/-- The STATUS view, field by field, and its reset value. -/
def Obligations.StatusLayout : Prop :=
  (∀ s : State,
    (STATUS s).extractLsb' 0 3 = s.ERR.code ∧
    (STATUS s)[3] = s.SV ∧ (STATUS s)[4] = s.KV ∧ (STATUS s)[5] = s.OV ∧ (STATUS s)[6] = s.ERRS ∧
    (STATUS s)[7] = false ∧ (STATUS s).extractLsb' 8 8 = s.KBR) ∧
  STATUS State.reset = 0x0000

/-- A command that ends in an error changes ERR, ERRS and OV as R250 says and nothing else, for every command and for every
word. -/
def Obligations.ErrorOutcomeIsPrecise : Prop :=
  (∀ (i : Instr) (s t : State), exec i s = .next t → t.ERR ≠ .noError →
    t = { s with ERR := t.ERR, ERRS := true, OV := false }) ∧
  (∀ (w : Word) (s t : State), issue w s = .next t → t.ERR ≠ .noError →
    t = { s with ERR := t.ERR, ERRS := true, OV := false })

/-- A command that completes leaves ERRS as it was. -/
def Obligations.CompletionLeavesErrs : Prop :=
  ∀ (i : Instr) (s t : State), exec i s = .next t → t.ERR = .noError → t.ERRS = s.ERRS

/-- The error a word reports is the first check that fails in R249's order, whatever else is wrong with it. -/
def Obligations.FirstFailedCheckIsReported : Prop :=
  ∀ (w : Word) (s t : State), issue w s = .next t → t.ERR = firstError w s

/-- LOADKEY and ENCRYPT with a kb that is neither 64 nor 128 end in CONFIG_ERROR, whatever the lengths. -/
def Obligations.ConfigErrorOnIllegalKeySize : Prop :=
  ErrorCode.configError.code = 1 ∧
  ∀ (s : State) (w : Word) (kb : BitVec 8) (blen : BitVec 4) (klen : BitVec 5),
    decode s.cfg.STEP_PORT w = .ok (.loadkey kb klen) ∨ decode s.cfg.STEP_PORT w = .ok (.encrypt kb blen klen) →
    kb = w.extractLsb' 4 8 ∧
    (kb ≠ 64 ∧ kb ≠ 128 →
      issue w s = .next { s with ERR := .configError, ERRS := true, OV := false })

/-- LOADPT with BLEN other than 8 ends in BLOCK_LENGTH_ERROR, and so does ENCRYPT once its kb is legal. -/
def Obligations.BlockLengthErrorUnlessEight : Prop :=
  ErrorCode.blockLengthError.code = 2 ∧
  ∀ (s : State) (w : Word) (kb : BitVec 8) (blen : BitVec 4) (klen : BitVec 5),
    decode s.cfg.STEP_PORT w = .ok (.loadpt blen) ∨
      (decode s.cfg.STEP_PORT w = .ok (.encrypt kb blen klen) ∧ (kb = 64 ∨ kb = 128)) →
    blen = w.extractLsb' 12 4 ∧
    (blen ≠ 8 →
      issue w s = .next { s with ERR := .blockLengthError, ERRS := true, OV := false })

/-- LOADKEY and ENCRYPT with a legal kb and KLEN below kb/8 end in KEY_LENGTH_ERROR (ENCRYPT once BLEN is 8); with any other
kb they do not. -/
def Obligations.KeyLengthErrorOnShortKey : Prop :=
  ErrorCode.keyLengthError.code = 3 ∧
  ∀ (s : State) (w : Word) (kb : BitVec 8) (klen : BitVec 5),
    decode s.cfg.STEP_PORT w = .ok (.loadkey kb klen) ∨ decode s.cfg.STEP_PORT w = .ok (.encrypt kb 8 klen) →
    klen = w.extractLsb' 16 5 ∧
    ((kb = 64 ∧ klen.toNat < 8) ∨ (kb = 128 ∧ klen.toNat < 16) →
      issue w s = .next { s with ERR := .keyLengthError, ERRS := true, OV := false }) ∧
    (kb ≠ 64 ∧ kb ≠ 128 → ∃ t, issue w s = .next t ∧ t.ERR ≠ .keyLengthError)

/-- The six commands that read S end in STATE_NOT_LOADED when SV = 0, whatever KV and the operand are. -/
def Obligations.StateNotLoadedWhileSvIsClear : Prop :=
  ErrorCode.stateNotLoaded.code = 6 ∧
  ∀ (s : State) (i : Instr), s.SV = false →
    ((∃ step, i = .addkey step) ∨ (∃ r, i = .addconst r) ∨ i = .subcells ∨ i = .shiftrows ∨ i = .mixcol ∨
      i = .readout) →
    exec i s = .next { s with ERR := .stateNotLoaded, ERRS := true, OV := false }

/-- ADDKEY and ADDCONST end in KEY_NOT_LOADED when KV = 0, once SV = 1. -/
def Obligations.KeyNotLoadedWhileKvIsClear : Prop :=
  ErrorCode.keyNotLoaded.code = 5 ∧
  ∀ (s : State) (i : Instr), s.SV = true → s.KV = false →
    ((∃ step, i = .addkey step) ∨ (∃ r, i = .addconst r)) →
    exec i s = .next { s with ERR := .keyNotLoaded, ERRS := true, OV := false }

/-- ADDCONST of a round index 48..63 ends in RANGE_ERROR, once SV = 1 and KV = 1. -/
def Obligations.RangeErrorFromFortyEight : Prop :=
  ErrorCode.rangeError.code = 7 ∧
  ∀ (s : State) (w : Word) (r : BitVec 6), decode s.cfg.STEP_PORT w = .ok (.addconst r) →
    r = w.extractLsb' 21 6 ∧
    (s.SV = true → s.KV = true → 48 ≤ r.toNat →
      issue w s = .next { s with ERR := .rangeError, ERRS := true, OV := false })

/-- ENCRYPT reports only the document's three errors; codes 5, 6 and 7 come from step commands alone; code 4 comes from no
command.
The spec's own inference: "only codes 1, 2 and 3 can arise" (R245). -/
def Obligations.EncryptReportsOnlyTheDocumentsErrors : Prop :=
  ∀ (i : Instr) (s t : State), exec i s = .next t →
    t.ERR ≠ .illegalCommand ∧
    ((∃ kb blen klen, i = .encrypt kb blen klen) →
      t.ERR = .noError ∨ t.ERR = .configError ∨ t.ERR = .blockLengthError ∨ t.ERR = .keyLengthError)

/-- ERRS is 0 after reset, an error sets it, only reset clears it, and after a run without a reset that began with ERRS = 0 it
is still 0 exactly when every command of the run completed. -/
def Obligations.ErrsIsSticky : Prop :=
  State.reset.ERRS = false ∧
  (∀ (w : Word) (s t : State), issue w s = .next t → t.ERR ≠ .noError → t.ERRS = true) ∧
  (∀ s t : State, step s = .next t → s.ERRS = true → t.ERRS = false → s.events.head? = some .reset) ∧
  (∀ (n : Nat) (s t : State), s.ERRS = false → HostEvent.reset ∉ s.events.take n → runsTo n s t →
    (t.ERRS = false ↔
      ∀ (k : Nat) (u v : State) (w : Word) (rest : List HostEvent),
        k < n → runsTo k s u → u.events = .issue w :: rest → step u = .next v → v.ERR = .noError))

/-! ## What each command does -/

/-- GFMUL completes in every state, writes the product to GFR and changes nothing else but ERR. -/
def Obligations.GfmulResult : Prop :=
  ∀ (a b : Nibble) (s : State),
    exec (.gfmul a b) s = .next { s with GFR := gfmul a b, ERR := .noError }

/-- LOADPT with BLEN = 8 completes: cell (r, c) is nibble 4r + c of DIN_BLOCK, SV is 1, and nothing else changes but ERR. -/
def Obligations.LoadptResult : Prop :=
  ∀ s : State, ∃ S' : CellMatrix,
    exec (.loadpt 8) s = .next { s with S := S', SV := true, ERR := .noError } ∧
    ∀ r c : Fin 4, S'[r][c] = s.DIN_BLOCK.extractLsb' (60 - 4 * (4 * r.val + c.val)) 4

/-- LOADKEY with a legal kb and a KLEN of at least kb/8 completes: K[i] is key nibble i of DIN_KEY for i < kb/4 and 0 above,
KBR is kb, KV is 1, and nothing else changes but ERR. -/
def Obligations.LoadkeyResult : Prop :=
  ∀ (kb : BitVec 8) (klen : BitVec 5) (s : State),
    kb = 64 ∨ kb = 128 → kb.toNat / 8 ≤ klen.toNat → ∃ K' : Vector Nibble 32,
      exec (.loadkey kb klen) s = .next { s with K := K', KBR := kb, KV := true, ERR := .noError } ∧
      ∀ i : Fin 32, K'[i] = if i.val < kb.toNat / 4 then s.DIN_KEY.extractLsb' (124 - 4 * i.val) 4 else 0

/-- ADDKEY on a loaded state and key completes for every step: cell (i, j) is XORed with K[(4i + j + 16 step) % (KBR/4)],
and nothing else changes but ERR. That KBR is 64 or 128 when KV = 1 is InvariantIsKeptByEveryStep. -/
def Obligations.AddkeyResult : Prop :=
  ∀ (step : BitVec 6) (s : State), s.SV = true → s.KV = true → s.KBR = 64 ∨ s.KBR = 128 → ∃ S' : CellMatrix,
    exec (.addkey step) s = .next { s with S := S', ERR := .noError } ∧
    ∀ i j : Fin 4, some (S'[i][j] ^^^ s.S[i][j]) =
      s.K[(4 * i.val + j.val + step.toNat * 16) % (s.KBR.toNat / 4)]?

/-- ADDCONST of a round index below 48 on a loaded state and key completes: column 0 takes the row tags and the two nibbles
of KBR, column 1 the two halves of RC[r], columns 2 and 3 stay, and nothing else changes but ERR. -/
def Obligations.AddconstResult : Prop :=
  ∀ (r : BitVec 6) (s : State), s.SV = true → s.KV = true → (h : r.toNat < 48) → ∃ S' : CellMatrix,
    exec (.addconst r) s = .next { s with S := S', ERR := .noError } ∧
    (∀ i : Fin 4, S'[i][0] = s.S[i][0] ^^^ BitVec.ofNat 4 i.val ^^^
      (if i.val < 2 then s.KBR.extractLsb' 4 4 else s.KBR.extractLsb' 0 4)) ∧
    (∀ i : Fin 4, S'[i][1] = s.S[i][1] ^^^
      (if i.val % 2 = 0 then (s.cfg.RC[r.toNat].extractLsb' 3 3).setWidth 4
        else (s.cfg.RC[r.toNat].extractLsb' 0 3).setWidth 4)) ∧
    (∀ i : Fin 4, S'[i][2] = s.S[i][2] ∧ S'[i][3] = s.S[i][3])

/-- SUBCELLS on a loaded state completes: each cell is its S-box image, and nothing else changes but ERR. -/
def Obligations.SubcellsResult : Prop :=
  ∀ s : State, s.SV = true → ∃ S' : CellMatrix,
    exec .subcells s = .next { s with S := S', ERR := .noError } ∧
    ∀ r c : Fin 4, some S'[r][c] = s.cfg.SBOX[s.S[r][c].toNat]?

/-- SHIFTROWS on a loaded state completes: row r is rotated left by r, and nothing else changes but ERR. -/
def Obligations.ShiftrowsResult : Prop :=
  ∀ s : State, s.SV = true → ∃ S' : CellMatrix,
    exec .shiftrows s = .next { s with S := S', ERR := .noError } ∧
    ∀ r : Fin 4, S'[r].toList = s.S[r].toList.rotate r.val

/-- MIXCOL on a loaded state completes: each column is multiplied by MD over GF(2^4), and nothing else changes but ERR. -/
def Obligations.MixcolResult : Prop :=
  ∀ s : State, s.SV = true → ∃ S' : CellMatrix,
    exec .mixcol s = .next { s with S := S', ERR := .noError } ∧
    ∀ i j : Fin 4, S'[i][j] =
      (List.finRange 4).foldl (fun acc k => acc ^^^ gfmul s.cfg.MD[i][k] s.S[k][j]) 0

/-- READOUT on a loaded state completes: nibble 4r + c of DOUT is cell (r, c), OV is 1, and nothing else changes but ERR. -/
def Obligations.ReadoutResult : Prop :=
  ∀ s : State, s.SV = true → ∃ D : Block,
    exec .readout s = .next { s with DOUT := D, OV := true, ERR := .noError } ∧
    ∀ r c : Fin 4, D.extractLsb' (60 - 4 * (4 * r.val + c.val)) 4 = s.S[r][c]

/-- ENCRYPT with a legal kb, BLEN = 8 and a KLEN of at least kb/8 completes in every state: DOUT is encryptFn of the port
values, OV is 1, the hidden registers are clear, and nothing else changes but ERR. -/
def Obligations.EncryptResult : Prop :=
  ∀ (kb : BitVec 8) (klen : BitVec 5) (s : State),
    kb = 64 ∨ kb = 128 → kb.toNat / 8 ≤ klen.toNat →
      exec (.encrypt kb 8 klen) s = .next { s with
        DOUT := blockOfBytes (encryptFn s.cfg (blockBytes s.DIN_BLOCK) (keyBytes s.DIN_KEY) kb)
        OV := true, ERR := .noError, enc := Orchestrator.idle }

/-! ## What no command does -/

/-- Each register is written by its own commands only, and no command touches the tables, the ports or the host's later
events: the frame of all ten commands at once. -/
def Obligations.RegistersAreWrittenByTheirCommandsOnly : Prop :=
  ∀ (i : Instr) (s t : State), exec i s = .next t →
    (i.opcode ∉ [0x2, 0x4, 0x5, 0x6, 0x7, 0x8] → t.S = s.S) ∧
    (i.opcode ≠ 0x2 → t.SV = s.SV) ∧
    (i.opcode ≠ 0x3 → t.K = s.K ∧ t.KBR = s.KBR ∧ t.KV = s.KV) ∧
    (i.opcode ∉ [0x9, 0xA] → t.DOUT = s.DOUT) ∧
    (i.opcode ≠ 0x1 → t.GFR = s.GFR) ∧
    (i.opcode ≠ 0xA → t.enc = s.enc) ∧
    t.cfg = s.cfg ∧ t.DIN_BLOCK = s.DIN_BLOCK ∧ t.DIN_KEY = s.DIN_KEY ∧ t.events = s.events

/-- SV and KV are never cleared by a command. -/
def Obligations.ValidFlagsAreClearedByResetOnly : Prop :=
  ∀ s t : State, step s = .next t →
    (s.SV = true ∧ t.SV = false) ∨ (s.KV = true ∧ t.KV = false) → s.events.head? = some .reset

/-- OV after a command: 0 on an error (of an illegal word too), 1 on a READOUT or ENCRYPT that completes, else as before. -/
def Obligations.OutputValidRule : Prop :=
  State.reset.OV = false ∧
  (∀ (w : Word) (s t : State), issue w s = .next t → t.ERR ≠ .noError → t.OV = false) ∧
  ∀ (i : Instr) (s t : State), exec i s = .next t →
    t.OV = if t.ERR ≠ .noError then false
      else if i.opcode = 0x9 ∨ i.opcode = 0xA then true else s.OV

/-- No step changes the constant tables or the STEP_PORT option. -/
def Obligations.TablesNeverChange : Prop :=
  ∀ (n : Nat) (s t : State), runsTo n s t → t.cfg = s.cfg

/-- A port value that a command does not use is ignored. -/
def Obligations.UnusedPortsAreIgnored : Prop :=
  ∀ (i : Instr) (s t : State), exec i s = .next t →
    (i.opcode ∉ [0x2, 0xA] → ∀ v, exec i { s with DIN_BLOCK := v } = .next { t with DIN_BLOCK := v }) ∧
    (i.opcode ∉ [0x3, 0xA] → ∀ v, exec i { s with DIN_KEY := v } = .next { t with DIN_KEY := v })

/-- With kb = 64 neither LOADKEY nor ENCRYPT reads DIN_KEY[63:0]. -/
def Obligations.LowKeyHalfIsIgnoredByLed64 : Prop :=
  ∀ (i : Instr) (blen : BitVec 4) (klen : BitVec 5) (s t : State) (v : KeyWord),
    i = .loadkey 64 klen ∨ i = .encrypt 64 blen klen →
    v.extractLsb' 64 64 = s.DIN_KEY.extractLsb' 64 64 →
    exec i s = .next t → exec i { s with DIN_KEY := v } = .next { t with DIN_KEY := v }

/-- ENCRYPT's error and result depend on its operands, the two ports and the tables, and on no register.
The spec's own inference: "ENCRYPT reads no register that an earlier command wrote" (R223). -/
def Obligations.EncryptDependsOnItsPortsOnly : Prop :=
  ∀ (kb : BitVec 8) (blen : BitVec 4) (klen : BitVec 5) (s s' t t' : State),
    s.cfg = s'.cfg → s.DIN_BLOCK = s'.DIN_BLOCK → s.DIN_KEY = s'.DIN_KEY →
    exec (.encrypt kb blen klen) s = .next t → exec (.encrypt kb blen klen) s' = .next t' →
      t.ERR = t'.ERR ∧ (t.ERR = .noError → t.DOUT = t'.DOUT ∧ t.OV = t'.OV)

/-- Which check fails, and so a command's latency, depends on the command word, STEP_PORT, SV and KV only: two states that
agree on these take the same time, whatever their data.
That latency has this form is the model's (log 10), after R292. -/
def Obligations.LatencyDoesNotDependOnData : Prop :=
  ∀ (w : Word) (s s' : State),
    s.cfg.STEP_PORT = s'.cfg.STEP_PORT → s.SV = s'.SV → s.KV = s'.KV →
      (∀ t t', issue w s = .next t → issue w s' = .next t' → t.ERR = t'.ERR) ∧ latency w s = latency w s'

/-! ## Invariants -/

/-- The invariant holds right after reset. -/
def Obligations.InvariantAtReset : Prop := State.Inv State.reset

/-- Every step from a state that meets the invariant gives a state that meets it.
The spec's own inferences among its clauses: "Whenever KV = 1, KBR is 64 or 128" (R34), and the hidden state outside a running ENCRYPT (R66). -/
def Obligations.InvariantIsKeptByEveryStep : Prop :=
  ∀ s t : State, State.Inv s → step s = .next t → State.Inv t

/-! ## The functions -/

/-- gfmul is the product of polynomials over GF(2) reduced modulo x^4 + x + 1.
The spec's own inference: the loop computes "that product" (R121). -/
def Obligations.GfmulIsThePolynomialProduct : Prop :=
  let poly : Nibble → Polynomial (ZMod 2) := fun v => ∑ k : Fin 4, if v[k] then Polynomial.X ^ k.val else 0
  ∀ a b : Nibble, (Polynomial.X ^ 4 + Polynomial.X + 1) ∣ (poly a * poly b - poly (gfmul a b))

/-- The laws of gfmul: zero, one, commutative, associative, distributive over XOR, and one inverse for each nonzero.
The last three are "Laws that follow from rule R121" (R123), the spec's own inference. -/
def Obligations.GfmulLaws : Prop :=
  (∀ a : Nibble, gfmul a 0 = 0 ∧ gfmul a 1 = a) ∧
  (∀ a b : Nibble, gfmul a b = gfmul b a) ∧
  (∀ a b c : Nibble, gfmul (gfmul a b) c = gfmul a (gfmul b c)) ∧
  (∀ a b c : Nibble, gfmul a (b ^^^ c) = gfmul a b ^^^ gfmul a c) ∧
  (∀ a : Nibble, a ≠ 0 → ∃ b, gfmul a b = 1 ∧ ∀ c, gfmul a c = 1 → c = b)

/-- Packing and unpacking are inverse, in bytes and on the ports, with nibble 4r + c of the port in cell (r, c).
All but the first are the spec's own inferences (R144). -/
def Obligations.PackAndUnpackAreInverse : Prop :=
  (∀ B : Vector Byte 8, unpack (pack B) = B) ∧
  (∀ S : CellMatrix, pack (unpack S) = S) ∧
  (∀ V : Block, blockOfBytes (unpack (pack (blockBytes V))) = V) ∧
  (∀ (V : Block) (r c : Fin 4), (pack (blockBytes V))[r][c] = V.extractLsb' (60 - 4 * (4 * r.val + c.val)) 4)

/-- addKey twice with the same key, step and kb restores the state, and so does ADDKEY twice.
The spec's own inference: "addKey is an involution" (R172). -/
def Obligations.AddKeyIsAnInvolution : Prop :=
  (∀ (S : CellMatrix) (K : List Nibble) (step : Nat) (kb : BitVec 8), addKey (addKey S K step kb) K step kb = S) ∧
  (∀ (step : BitVec 6) (s t : State), s.SV = true → s.KV = true →
    execAll [.addkey step, .addkey step] s = .next t → t = { s with ERR := .noError })

/-- addConstants twice with the same round and kb restores the state.
The spec's own inference: "restores S, since it is a pure XOR" (R181). -/
def Obligations.AddConstantsIsAnInvolution : Prop :=
  ∀ (cfg : Config) (S : CellMatrix) (r : Nat) (kb : BitVec 8),
    addConstants cfg (addConstants cfg S r kb) r kb = S

/-- subCells is a bijection on states for every S-box that holds each nibble once.
R190 says "bijective per cell". -/
def Obligations.SubCellsIsBijective : Prop :=
  ∀ cfg : Config, cfg.sboxIsPermutation = true → Function.Bijective (subCells cfg)

/-- Four applications of shiftRows are the identity.
The spec's own inference: "applied four times is the identity on states" (R197). -/
def Obligations.ShiftRowsFourTimesIsTheIdentity : Prop :=
  ∀ S : CellMatrix, shiftRows (shiftRows (shiftRows (shiftRows S))) = S

/-- mixColumns is linear over XOR, for every diffusion matrix.
The spec's own inference: "mixColumns is linear over XOR" (R202). -/
def Obligations.MixColumnsIsLinear : Prop :=
  ∀ (cfg : Config) (S T : CellMatrix),
    mixColumns cfg (ofCells fun r c => S[r][c] ^^^ T[r][c]) =
      ofCells fun r c => (mixColumns cfg S)[r][c] ^^^ (mixColumns cfg T)[r][c]

/-- Over the default diffusion matrix mixColumns is a bijection on states.
The spec's own inference: "the column map is a bijection on all 65536 column values" (R201). -/
def Obligations.DefaultMixColumnsIsBijective : Prop :=
  ∀ cfg : Config, cfg.MD = defaultMD → Function.Bijective (mixColumns cfg)

/-- Lanes: column j of mixColumns depends on column j only, and row r of shiftRows on row r only.
The spec's own inference: "mixColumns combines the four lanes of a column only" (R205). -/
def Obligations.LayersKeepToColumnsAndRows : Prop :=
  (∀ (cfg : Config) (S T : CellMatrix) (j : Fin 4), (∀ i : Fin 4, S[i][j] = T[i][j]) →
    ∀ i : Fin 4, (mixColumns cfg S)[i][j] = (mixColumns cfg T)[i][j]) ∧
  (∀ (S T : CellMatrix) (r : Fin 4), S[r] = T[r] → (shiftRows S)[r] = (shiftRows T)[r])

/-! ## The orchestrator and the whole cipher -/

/-- The orchestrator's transitions: from its start the machine is in a layer phase for exactly 1 + 17 G transitions, G + 1
of them AK and 4 G of each other layer; then it is in OUT, and one transition later idle and clear. The phases and counters
never depend on the data.
The spec's own inference: "exactly `1 + 17*G` layer transitions and one OUT transition" (R221). -/
def Obligations.OrchestratorTransitions : Prop :=
  (∀ (s : State) (block : Vector Byte 8) (bytes : List Byte) (kb : BitVec 8), kb = 64 ∨ kb = 128 →
    let G := if kb = 64 then 8 else 12
    let phase := fun n => (runOrchestrator n { s with enc := startOrchestrator block bytes kb }).enc.PH
    (∀ n < 1 + 17 * G, phase n ≠ .out ∧ phase n ≠ .idle) ∧
    phase (1 + 17 * G) = .out ∧
    (runOrchestrator (1 + 17 * G + 1) { s with enc := startOrchestrator block bytes kb }).enc = Orchestrator.idle ∧
    ((List.range (1 + 17 * G)).map phase).count .ak = G + 1 ∧
    ((List.range (1 + 17 * G)).map phase).count .ac = 4 * G ∧
    ((List.range (1 + 17 * G)).map phase).count .sc = 4 * G ∧
    ((List.range (1 + 17 * G)).map phase).count .sr = 4 * G ∧
    ((List.range (1 + 17 * G)).map phase).count .mc = 4 * G) ∧
  (∀ (n : Nat) (s s' : State),
    s.enc.PH = s'.enc.PH → s.enc.RND = s'.enc.RND → s.enc.WS = s'.enc.WS → s.enc.EKB = s'.enc.EKB →
    (runOrchestrator n s).enc.PH = (runOrchestrator n s').enc.PH ∧
    (runOrchestrator n s).enc.RND = (runOrchestrator n s').enc.RND ∧
    (runOrchestrator n s).enc.WS = (runOrchestrator n s').enc.WS)

/-- The state machine computes encryptFn, for every block, key and table contents, and leaves the rest of the state alone.
The spec's own inference: "The machine computes encryptFn" (R222). -/
def Obligations.OrchestratorComputesEncryptFn : Prop :=
  ∀ (s : State) (block : Vector Byte 8) (bytes : List Byte) (kb : BitVec 8), kb = 64 ∨ kb = 128 →
    runOrchestrator (transitionCount kb.toNat) { s with enc := startOrchestrator block bytes kb } =
      { s with DOUT := blockOfBytes (encryptFn s.cfg block bytes kb), OV := true, ERR := .noError
               enc := Orchestrator.idle }

/-- The cipher run one layer per command through the step port ends with the DOUT that ENCRYPT writes on the same ports,
for LED-64 and LED-128, from every state.
The spec's own inference: R225. -/
def Obligations.StepCommandsComputeWhatEncryptComputes : Prop :=
  ∀ s : State,
    (∃ t u, execAll stepenc64 s = .next t ∧ exec (.encrypt 64 8 8) s = .next u ∧
      t.DOUT = u.DOUT ∧ t.OV = true ∧ t.ERR = .noError ∧ t.ERRS = s.ERRS) ∧
    (∃ t u, execAll stepenc128 s = .next t ∧ exec (.encrypt 128 8 16) s = .next u ∧
      t.DOUT = u.DOUT ∧ t.OV = true ∧ t.ERR = .noError ∧ t.ERRS = s.ERRS)

/-- The ENCRYPT command implements the document's Encrypt: for a block and a key whose lengths are BLEN and KLEN and whose
bytes stand on the ports as far as the ports carry them, it reports the operation's error, or leaves its result in DOUT.
The two share encryptFn and the operand checks, so it is about the ports, the lengths and the state machine. -/
def Obligations.EncryptCommandImplementsTheOperation : Prop :=
  ∀ (s : State) (block key : List Byte) (kb : BitVec 8) (blen : BitVec 4) (klen : BitVec 5),
    block.length = blen.toNat → key.length = klen.toNat →
    block.take 8 = (blockBytes s.DIN_BLOCK).toList.take block.length →
    key.take 16 = (keyBytes s.DIN_KEY).take key.length →
    ∃ t, exec (.encrypt kb blen klen) s = .next t ∧
      match encryptOperation s.cfg block key kb.toNat with
      | .error e => t = { s with ERR := e, ERRS := true, OV := false } ∧ e ≠ .noError
      | .ok B => t.ERR = .noError ∧ t.OV = true ∧ t.DOUT = blockOfBytes B

/-- LED is a block cipher: for a fixed key, two blocks with the same ciphertext are equal (S-box a permutation, default
diffusion matrix).
The spec states it in no rule: the model's own consequence of R170, R180, R190, R195, R201 and R210. -/
def Obligations.EncryptionIsInjectiveInTheBlock : Prop :=
  ∀ (cfg : Config) (bytes : List Byte) (kb : BitVec 8),
    cfg.sboxIsPermutation = true → cfg.MD = defaultMD → kb = 64 ∨ kb = 128 →
      Function.Injective fun block => encryptFn cfg block bytes kb
end

