-- ==== Sys2Proof/Laws/State.lean ====
section
/-! SUPPORT. What each named update of the state does to each field: one lemma a field, true by unfolding once. -/

namespace Sys2Proof.Machine

variable (e : ErrorCode) (s : State)

/-! ## errorState -/

@[simp] theorem errorState_cfg : (errorState e s).cfg = s.cfg := rfl
@[simp] theorem errorState_S : (errorState e s).S = s.S := rfl
@[simp] theorem errorState_SV : (errorState e s).SV = s.SV := rfl
@[simp] theorem errorState_K : (errorState e s).K = s.K := rfl
@[simp] theorem errorState_KBR : (errorState e s).KBR = s.KBR := rfl
@[simp] theorem errorState_KV : (errorState e s).KV = s.KV := rfl
@[simp] theorem errorState_DOUT : (errorState e s).DOUT = s.DOUT := rfl
@[simp] theorem errorState_OV : (errorState e s).OV = false := rfl
@[simp] theorem errorState_GFR : (errorState e s).GFR = s.GFR := rfl
@[simp] theorem errorState_ERR : (errorState e s).ERR = e := rfl
@[simp] theorem errorState_ERRS : (errorState e s).ERRS = true := rfl
@[simp] theorem errorState_enc : (errorState e s).enc = s.enc := rfl
@[simp] theorem errorState_DIN_BLOCK : (errorState e s).DIN_BLOCK = s.DIN_BLOCK := rfl
@[simp] theorem errorState_DIN_KEY : (errorState e s).DIN_KEY = s.DIN_KEY := rfl
@[simp] theorem errorState_events : (errorState e s).events = s.events := rfl

/-! ## completedState -/

@[simp] theorem completedState_cfg : (completedState s).cfg = s.cfg := rfl
@[simp] theorem completedState_S : (completedState s).S = s.S := rfl
@[simp] theorem completedState_SV : (completedState s).SV = s.SV := rfl
@[simp] theorem completedState_K : (completedState s).K = s.K := rfl
@[simp] theorem completedState_KBR : (completedState s).KBR = s.KBR := rfl
@[simp] theorem completedState_KV : (completedState s).KV = s.KV := rfl
@[simp] theorem completedState_DOUT : (completedState s).DOUT = s.DOUT := rfl
@[simp] theorem completedState_OV : (completedState s).OV = s.OV := rfl
@[simp] theorem completedState_GFR : (completedState s).GFR = s.GFR := rfl
@[simp] theorem completedState_ERR : (completedState s).ERR = .noError := rfl
@[simp] theorem completedState_ERRS : (completedState s).ERRS = s.ERRS := rfl
@[simp] theorem completedState_enc : (completedState s).enc = s.enc := rfl
@[simp] theorem completedState_DIN_BLOCK : (completedState s).DIN_BLOCK = s.DIN_BLOCK := rfl
@[simp] theorem completedState_DIN_KEY : (completedState s).DIN_KEY = s.DIN_KEY := rfl
@[simp] theorem completedState_events : (completedState s).events = s.events := rfl

/-! ## resetRegisters -/

@[simp] theorem resetRegisters_cfg : (resetRegisters s).cfg = s.cfg := rfl
@[simp] theorem resetRegisters_S : (resetRegisters s).S = zeroMatrix := rfl
@[simp] theorem resetRegisters_SV : (resetRegisters s).SV = false := rfl
@[simp] theorem resetRegisters_K : (resetRegisters s).K = Vector.replicate 32 0 := rfl
@[simp] theorem resetRegisters_KBR : (resetRegisters s).KBR = 0 := rfl
@[simp] theorem resetRegisters_KV : (resetRegisters s).KV = false := rfl
@[simp] theorem resetRegisters_DOUT : (resetRegisters s).DOUT = 0 := rfl
@[simp] theorem resetRegisters_OV : (resetRegisters s).OV = false := rfl
@[simp] theorem resetRegisters_GFR : (resetRegisters s).GFR = 0 := rfl
@[simp] theorem resetRegisters_ERR : (resetRegisters s).ERR = .noError := rfl
@[simp] theorem resetRegisters_ERRS : (resetRegisters s).ERRS = false := rfl
@[simp] theorem resetRegisters_enc : (resetRegisters s).enc = Orchestrator.idle := rfl
@[simp] theorem resetRegisters_DIN_BLOCK : (resetRegisters s).DIN_BLOCK = s.DIN_BLOCK := rfl
@[simp] theorem resetRegisters_DIN_KEY : (resetRegisters s).DIN_KEY = s.DIN_KEY := rfl
@[simp] theorem resetRegisters_events : (resetRegisters s).events = s.events := rfl

/-! ## phaseOUT -/

@[simp] theorem phaseOUT_cfg : (phaseOUT s).cfg = s.cfg := rfl
@[simp] theorem phaseOUT_S : (phaseOUT s).S = s.S := rfl
@[simp] theorem phaseOUT_SV : (phaseOUT s).SV = s.SV := rfl
@[simp] theorem phaseOUT_K : (phaseOUT s).K = s.K := rfl
@[simp] theorem phaseOUT_KBR : (phaseOUT s).KBR = s.KBR := rfl
@[simp] theorem phaseOUT_KV : (phaseOUT s).KV = s.KV := rfl
@[simp] theorem phaseOUT_DOUT : (phaseOUT s).DOUT = blockOfBytes (unpack s.enc.ES) := rfl
@[simp] theorem phaseOUT_OV : (phaseOUT s).OV = true := rfl
@[simp] theorem phaseOUT_GFR : (phaseOUT s).GFR = s.GFR := rfl
@[simp] theorem phaseOUT_ERR : (phaseOUT s).ERR = .noError := rfl
@[simp] theorem phaseOUT_ERRS : (phaseOUT s).ERRS = s.ERRS := rfl
@[simp] theorem phaseOUT_enc : (phaseOUT s).enc = Orchestrator.idle := rfl
@[simp] theorem phaseOUT_DIN_BLOCK : (phaseOUT s).DIN_BLOCK = s.DIN_BLOCK := rfl
@[simp] theorem phaseOUT_DIN_KEY : (phaseOUT s).DIN_KEY = s.DIN_KEY := rfl
@[simp] theorem phaseOUT_events : (phaseOUT s).events = s.events := rfl

end Sys2Proof.Machine
end

