-- ==== Sys2Proof/Laws/Ops.lean ====
section
/-! SUPPORT. What the shared operations can answer, said once: the two outcomes and the checks before them. -/

namespace Sys2Proof.Machine

@[simp] theorem raiseError_eq (e : ErrorCode) (s : State) : raiseError e s = .next (errorState e s) := rfl

@[simp] theorem complete_eq (s : State) : complete s = .next (completedState s) := rfl

@[simp] theorem afterChecks_nil (s : State) (body : Result) : afterChecks [] s body = body := rfl

@[simp] theorem afterChecks_pass (e : ErrorCode) (rest : List (Bool × ErrorCode)) (s : State) (body : Result) :
    afterChecks ((true, e) :: rest) s body = afterChecks rest s body := rfl

@[simp] theorem afterChecks_fail (e : ErrorCode) (rest : List (Bool × ErrorCode)) (s : State) (body : Result) :
    afterChecks ((false, e) :: rest) s body = .next (errorState e s) := rfl

/-- Checks that all pass leave the answer to the body. -/
theorem afterChecks_of_all_pass {cs : List (Bool × ErrorCode)} {s : State} {body : Result}
    (h : ∀ c ∈ cs, c.1 = true) : afterChecks cs s body = body := by
  induction cs with
  | nil => rfl
  | cons c rest ih =>
    obtain ⟨b, e⟩ := c
    obtain rfl : b = true := h (b, e) (by simp)
    simpa using ih fun c hc => h c (by simp [hc])

/-- Everything the checks can do: all pass and the body answers, or one fails and its error outcome is the answer. -/
theorem afterChecks_cases (cs : List (Bool × ErrorCode)) (s : State) (body : Result) :
    ((∀ c ∈ cs, c.1 = true) ∧ afterChecks cs s body = body) ∨
    ∃ e, (false, e) ∈ cs ∧ afterChecks cs s body = .next (errorState e s) := by
  induction cs with
  | nil => exact .inl ⟨by simp, rfl⟩
  | cons c rest ih =>
    obtain ⟨b, e⟩ := c
    cases b with
    | false => exact .inr ⟨e, by simp, rfl⟩
    | true =>
      obtain ⟨hall, heq⟩ | ⟨e', hmem, heq⟩ := ih
      · exact .inl ⟨by simpa using hall, heq⟩
      · exact .inr ⟨e', by simp [hmem], heq⟩

end Sys2Proof.Machine
end

