-- ==== Sys2Proof/Laws/Cells.lean ====
section
/-! SUPPORT. Matrices cell by cell: when two are equal, and what each function over cells puts in a cell. -/

namespace Sys2Proof.Machine

/-- Two matrices with the same cells are equal. -/
theorem cells_ext {S T : CellMatrix} (h : ∀ r c : Fin 4, S[r][c] = T[r][c]) : S = T := by
  apply Vector.ext
  intro r hr
  apply Vector.ext
  intro c hc
  exact h ⟨r, hr⟩ ⟨c, hc⟩

@[simp] theorem ofCells_get (f : Fin 4 → Fin 4 → Nibble) (r c : Nat) (hr : r < 4) (hc : c < 4) :
    (ofCells f)[r][c] = f ⟨r, hr⟩ ⟨c, hc⟩ := by
  simp [ofCells]

@[simp] theorem zeroMatrix_get (r c : Nat) (hr : r < 4) (hc : c < 4) : zeroMatrix[r][c] = 0 := by
  simp [zeroMatrix]

/-- xorCell changes its own cell and no other. -/
theorem xorCell_get (r c : Fin 4) (v : Nibble) (S : CellMatrix) (i j : Fin 4) :
    (xorCell r c v S)[i][j] = if i = r ∧ j = c then S[i][j] ^^^ v else S[i][j] := by
  simp only [xorCell, Fin.getElem_fin, Vector.getElem_set]
  by_cases hr : r.val = i.val
  · obtain rfl : r = i := Fin.ext hr
    by_cases hc : c.val = j.val
    · obtain rfl : c = j := Fin.ext hc
      simp
    · have : j ≠ c := fun h => hc (congrArg Fin.val h.symm)
      simp [hc, this]
  · have : i ≠ r := fun h => hr (congrArg Fin.val h.symm)
    simp [hr, this]

/-- The constant that addConstants XORs into cell (i, j), for round constant rc and key size kb (the table of R180). -/
def roundConstantCell (rc : BitVec 6) (kb : BitVec 8) (i j : Fin 4) : Nibble :=
  if j = 0 then BitVec.ofNat 4 i.val ^^^ (if i.val < 2 then highNibble kb else lowNibble kb)
  else if j = 1 then
    if i.val % 2 = 0 then ((rc >>> 3) &&& 7).setWidth 4 else (rc &&& 7).setWidth 4
  else 0

/-- The eleven XORs in one: each cell takes one constant. -/
theorem addConstants_get (cfg : Config) (S : CellMatrix) (r : Nat) (kb : BitVec 8) (i j : Fin 4) :
    (addConstants cfg S r kb)[i][j] = S[i][j] ^^^ roundConstantCell (roundConstant cfg r) kb i j := by
  simp only [addConstants, xorCell_get, roundConstantCell]
  fin_cases i <;> fin_cases j <;> simp [BitVec.xor_assoc]

@[simp] theorem addKey_get (S : CellMatrix) (K : List Nibble) (step : Nat) (kb : BitVec 8) (i j : Nat) (hi : i < 4)
    (hj : j < 4) :
    (addKey S K step kb)[i][j] = S[i][j] ^^^ keyNibble K (4 * i + j + step * 16) (kb.toNat / 4) := by
  simp [addKey]

@[simp] theorem subCells_get (cfg : Config) (S : CellMatrix) (r c : Nat) (hr : r < 4) (hc : c < 4) :
    (subCells cfg S)[r][c] = cfg.SBOX[S[r][c].toNat] := by
  simp [subCells]

@[simp] theorem shiftRows_get (S : CellMatrix) (r c : Nat) (hr : r < 4) (hc : c < 4) :
    (shiftRows S)[r][c] = S[r][(c + r) % 4] := by
  simp [shiftRows, Fin.val_add]

@[simp] theorem mixColumns_get (cfg : Config) (S : CellMatrix) (i j : Nat) (hi : i < 4) (hj : j < 4) :
    (mixColumns cfg S)[i][j] =
      gfmul cfg.MD[i][0] S[0][j] ^^^ gfmul cfg.MD[i][1] S[1][j] ^^^
      gfmul cfg.MD[i][2] S[2][j] ^^^ gfmul cfg.MD[i][3] S[3][j] := by
  simp [mixColumns]

@[simp] theorem pack_get (B : Vector Byte 8) (r c : Nat) (hr : r < 4) (hc : c < 4) :
    (pack B)[r][c] = nibbleOf B.toList (4 * r + c) := by
  simp [pack]

@[simp] theorem keyRegister_get (N : List Nibble) (i : Nat) (h : i < 32) : (keyRegister N)[i] = N.getD i 0 := by
  simp [keyRegister]

@[simp] theorem deriveKeyNibbles_length (bytes : List Byte) (kb : Nat) : (deriveKeyNibbles bytes kb).length = kb / 4 := by
  simp [deriveKeyNibbles]

/-- Inside the key array, keyNibble is the array's nibble. -/
theorem keyNibble_eq {K : List Nibble} {n L : Nat} (hL : 0 < L) (h : n % L < K.length) :
    keyNibble K n L = K[n % L] := by
  simp [keyNibble, hL, h]

/-- A register filled from a key array of L nibbles gives the array's own nibbles. -/
theorem keyNibble_keyRegister {N : List Nibble} {n L : Nat} (hL : 0 < L) (hN : N.length = L) (h32 : L ≤ 32) :
    keyNibble (keyRegister N).toList n L = keyNibble N n L := by
  have hlt : n % L < L := Nat.mod_lt n hL
  rw [keyNibble_eq hL (by simpa using by omega), keyNibble_eq hL (by omega)]
  simp [List.getD_eq_getElem?_getD, List.getElem?_eq_getElem (show n % L < N.length by omega)]

end Sys2Proof.Machine
end

