-- ==== Sys2Proof/Laws/Codec.lean ====
section
/-! SUPPORT. The codec and the ports nibble by nibble and byte by byte: one lemma for each way a value is read. -/

namespace Sys2Proof.Machine

/-- A slice of a slice is a slice. -/
theorem extract_extract {w : Nat} (v : BitVec w) (a b m n : Nat) (h : a + m ≤ n) :
    (v.extractLsb' b n).extractLsb' a m = v.extractLsb' (b + a) m := by
  apply BitVec.eq_of_getLsbD_eq
  intro i hi
  simp [hi, show a + i < n by omega, Nat.add_assoc]

/-- Key nibble i is `DIN_KEY[127-4i : 124-4i]` (R73). -/
theorem nibbleOf_keyBytes (v : KeyWord) (n : Nat) (h : n < 32) :
    nibbleOf (keyBytes v) n = v.extractLsb' (124 - 4 * n) 4 := by
  have hlt : n / 2 < 16 := by omega
  have hget : (keyBytes v).getD (n / 2) 0 = v.extractLsb' (120 - 8 * (n / 2)) 8 := by
    simp [keyBytes, List.getD_eq_getElem?_getD, hlt]
  unfold nibbleOf highNibble lowNibble
  rw [hget]
  split
  · rw [extract_extract v _ _ _ _ (by omega)]; congr 1; omega
  · rw [extract_extract v _ _ _ _ (by omega)]; congr 1; omega

/-- The nibble of block cell n is `DIN_BLOCK[63-4n : 60-4n]` (R73). -/
theorem nibbleOf_blockBytes (v : Block) (n : Nat) (h : n < 16) :
    nibbleOf (blockBytes v).toList n = v.extractLsb' (60 - 4 * n) 4 := by
  have hlt : n / 2 < 8 := by omega
  have hget : (blockBytes v).toList.getD (n / 2) 0 = v.extractLsb' (56 - 8 * (n / 2)) 8 := by
    simp [blockBytes, List.getD_eq_getElem?_getD, hlt]
  unfold nibbleOf highNibble lowNibble
  rw [hget]
  split
  · rw [extract_extract v _ _ _ _ (by omega)]; congr 1; omega
  · rw [extract_extract v _ _ _ _ (by omega)]; congr 1; omega

/-- The bytes of a port value built from bytes are those bytes. -/
theorem blockBytes_blockOfBytes (B : Vector Byte 8) : blockBytes (blockOfBytes B) = B := by
  apply Vector.ext
  intro i hi
  simp only [blockBytes, Vector.getElem_ofFn, blockOfBytes]
  apply BitVec.eq_of_getLsbD_eq
  intro k hk
  interval_cases i <;> interval_cases k <;> simp

/-- Byte i of a port value. -/
theorem blockBytes_get (v : Block) (i : Nat) (h : i < 8) : (blockBytes v)[i] = v.extractLsb' (56 - 8 * i) 8 := by
  simp [blockBytes]

/-- A port value is built from its own bytes. -/
theorem blockOfBytes_blockBytes (v : Block) : blockOfBytes (blockBytes v) = v := by
  apply BitVec.eq_of_getLsbD_eq
  intro k hk
  simp only [blockOfBytes, blockBytes_get]
  interval_cases k <;> simp

/-- Byte i of an unpacked matrix. -/
theorem unpack_get (S : CellMatrix) (i : Nat) (h : i < 8) :
    (unpack S)[i] = (cellAt S ⟨2 * i, by omega⟩).setWidth 8 <<< 4 ||| (cellAt S ⟨2 * i + 1, by omega⟩).setWidth 8 := by
  simp [unpack]

/-- The high nibble of two joined nibbles. -/
theorem highNibble_join (a b : Nibble) : highNibble (a.setWidth 8 <<< 4 ||| b.setWidth 8) = a := by
  revert a b; decide

/-- The low nibble of two joined nibbles. -/
theorem lowNibble_join (a b : Nibble) : lowNibble (a.setWidth 8 <<< 4 ||| b.setWidth 8) = b := by
  revert a b; decide

/-- A byte is its two nibbles joined. -/
theorem join_nibbles (x : Byte) : (highNibble x).setWidth 8 <<< 4 ||| (lowNibble x).setWidth 8 = x := by
  revert x; decide

/-- Nibble n of an unpacked matrix is its cell n. -/
theorem nibbleOf_unpack (S : CellMatrix) (n : Fin 16) : nibbleOf (unpack S).toList n.val = cellAt S n := by
  have hlt : n.val / 2 < 8 := by omega
  have hget : (unpack S).toList.getD (n.val / 2) 0 = (unpack S)[n.val/2] := by
    simp [List.getD_eq_getElem?_getD, hlt]
  unfold nibbleOf
  rw [hget, unpack_get]
  split
  · rw [highNibble_join]; congr 2; omega
  · rw [lowNibble_join]; congr 2; omega

/-- Cell 4r + c in row-major order is the cell in row r and column c. -/
theorem cellAt_get (S : CellMatrix) (r c : Nat) (hr : r < 4) (hc : c < 4) :
    cellAt S ⟨4 * r + c, by omega⟩ = S[r][c] := by
  have h1 : (4 * r + c) / 4 = r := by omega
  have h2 : (4 * r + c) % 4 = c := by omega
  simp only [cellAt, h1, h2]

end Sys2Proof.Machine
end

