-- ==== Sys2Proof/Laws/Exec.lean ====
section
/-! SUPPORT. Everything one command and one step can do, said once: a command is its checks and then one next state. -/

namespace Sys2Proof.Machine

/-- The checks of a command on a state, in order. -/
def checksOf (s : State) : Instr → List (Bool × ErrorCode)
  | .gfmul _ _ => []
  | .loadpt blen => [(blockLengthLegal blen.toNat, .blockLengthError)]
  | .loadkey kb klen => [(keySizeLegal kb.toNat, .configError), (keyLengthLegal kb.toNat klen.toNat, .keyLengthError)]
  | .addkey _ => [(s.SV, .stateNotLoaded), (s.KV, .keyNotLoaded)]
  | .addconst r => [(s.SV, .stateNotLoaded), (s.KV, .keyNotLoaded), (roundIndexLegal r.toNat, .rangeError)]
  | .subcells => [(s.SV, .stateNotLoaded)]
  | .shiftrows => [(s.SV, .stateNotLoaded)]
  | .mixcol => [(s.SV, .stateNotLoaded)]
  | .readout => [(s.SV, .stateNotLoaded)]
  | .encrypt kb blen klen => [(keySizeLegal kb.toNat, .configError), (blockLengthLegal blen.toNat, .blockLengthError),
      (keyLengthLegal kb.toNat klen.toNat, .keyLengthError)]

/-- The state after a command whose checks all pass. -/
def effectOf (s : State) : Instr → State
  | .gfmul a b => { s with GFR := gfmul a b, ERR := .noError }
  | .loadpt _ => { s with S := pack (blockBytes s.DIN_BLOCK), SV := true, ERR := .noError }
  | .loadkey kb _ => { s with
      K := keyRegister (deriveKeyNibbles (keyBytes s.DIN_KEY) kb.toNat), KBR := kb, KV := true, ERR := .noError }
  | .addkey step => { s with S := addKey s.S s.K.toList step.toNat s.KBR, ERR := .noError }
  | .addconst r => { s with S := addConstants s.cfg s.S r.toNat s.KBR, ERR := .noError }
  | .subcells => { s with S := subCells s.cfg s.S, ERR := .noError }
  | .shiftrows => { s with S := shiftRows s.S, ERR := .noError }
  | .mixcol => { s with S := mixColumns s.cfg s.S, ERR := .noError }
  | .readout => { s with DOUT := blockOfBytes (unpack s.S), OV := true, ERR := .noError }
  | .encrypt kb _ _ => runOrchestrator (transitionCount kb.toNat)
      { s with enc := startOrchestrator (blockBytes s.DIN_BLOCK) (keyBytes s.DIN_KEY) kb }

/-- Every meaning is its checks and then its effect. -/
theorem exec_eq_afterChecks (i : Instr) (s : State) :
    exec i s = afterChecks (checksOf s i) s (.next (effectOf s i)) := by
  cases i <;> rfl

/-- No check reports the code of success or of an illegal word. -/
theorem checksOf_error (i : Instr) (s : State) : ∀ c ∈ checksOf s i, c.2 ≠ .noError ∧ c.2 ≠ .illegalCommand := by
  cases i <;> simp [checksOf]

/-- Everything a command can do: its checks pass and it answers its effect, or it answers the error outcome of a check that
fails. -/
theorem exec_cases (i : Instr) (s : State) :
    ((∀ c ∈ checksOf s i, c.1 = true) ∧ exec i s = .next (effectOf s i)) ∨
    ∃ e, e ≠ .noError ∧ (false, e) ∈ checksOf s i ∧ exec i s = .next (errorState e s) := by
  rw [exec_eq_afterChecks]
  obtain h | ⟨e, hmem, heq⟩ := afterChecks_cases (checksOf s i) s (.next (effectOf s i))
  · exact .inl h
  · exact .inr ⟨e, (checksOf_error i s _ hmem).1, hmem, heq⟩

/-- Everything one issued word can do: run the command it decodes to, or end in ILLEGAL_COMMAND. -/
theorem issue_cases (w : Word) (s : State) :
    (∃ i, decode s.cfg.STEP_PORT w = .ok i ∧ issue w s = exec i s) ∨
    ∃ why, decode s.cfg.STEP_PORT w = .error why ∧ issue w s = .next (errorState .illegalCommand s) := by
  unfold issue
  split
  · rename_i why h
    exact .inr ⟨why, h, rfl⟩
  · rename_i i h
    exact .inl ⟨i, h, rfl⟩

/-- Everything one step can do: idle, or the host's next event. -/
theorem step_cases (s : State) :
    (s.events = [] ∧ step s = .next s) ∨
    ∃ e rest, s.events = e :: rest ∧ step s = applyEvent e { s with events := rest } := by
  unfold step nextEvent
  split
  · rename_i h
    exact .inl ⟨h, rfl⟩
  · rename_i e rest h
    exact .inr ⟨e, rest, h, rfl⟩

end Sys2Proof.Machine
end

