-- ==== Sys2Proof/Laws/Orchestrator.lean ====
section
/-! SUPPORT. Runs of the orchestrator: they compose, an idle orchestrator stays as it is, and the registers that no
transition writes. -/

namespace Sys2Proof.Machine

/-- Runs compose. -/
theorem runOrchestrator_add (m n : Nat) (s : State) :
    runOrchestrator (m + n) s = runOrchestrator n (runOrchestrator m s) := by
  induction m generalizing s with
  | zero => simp [runOrchestrator]
  | succ m ih =>
    rw [Nat.succ_add]
    exact ih _

/-- One more transition at the end. -/
theorem runOrchestrator_succ (n : Nat) (s : State) :
    runOrchestrator (n + 1) s = orchestratorStep (runOrchestrator n s) := runOrchestrator_add n 1 s

/-- An idle orchestrator makes no transition. -/
theorem runOrchestrator_idle {s : State} (h : s.enc.PH = .idle) (n : Nat) : runOrchestrator n s = s := by
  have hstep : orchestratorStep s = s := by simp [orchestratorStep, h]
  induction n with
  | zero => rfl
  | succ n ih => rw [runOrchestrator, hstep, ih]

/-- No transition touches the step-port registers, GFR, ERRS, the tables or the host's side. -/
theorem orchestratorStep_frame (s : State) :
    (orchestratorStep s).cfg = s.cfg ∧ (orchestratorStep s).S = s.S ∧ (orchestratorStep s).SV = s.SV ∧
    (orchestratorStep s).K = s.K ∧ (orchestratorStep s).KBR = s.KBR ∧ (orchestratorStep s).KV = s.KV ∧
    (orchestratorStep s).GFR = s.GFR ∧ (orchestratorStep s).ERRS = s.ERRS ∧
    (orchestratorStep s).DIN_BLOCK = s.DIN_BLOCK ∧ (orchestratorStep s).DIN_KEY = s.DIN_KEY ∧
    (orchestratorStep s).events = s.events := by
  unfold orchestratorStep
  split <;> simp

/-- From AC with r rounds done, four transitions make round r. -/
theorem runOrchestrator_round (s : State) (r : Nat) (hph : s.enc.PH = .ac) (hr : s.enc.RND = BitVec.ofNat 6 r)
    (hlt : r < 48) :
    runOrchestrator 4 s = { s with
      enc := {
        ES := roundFn s.cfg s.enc.EKB r s.enc.ES
        EK := s.enc.EK
        EKB := s.enc.EKB
        RND := BitVec.ofNat 6 (r + 1)
        WS := if (r + 1) % 4 = 0 then s.enc.WS + 1 else s.enc.WS
        PH := if (r + 1) % 4 = 0 then .ak else .ac } } := by
  have hmod : r % 64 = r := by omega
  have hnext : BitVec.ofNat 6 r + 1 = BitVec.ofNat 6 (r + 1) := by rw [BitVec.ofNat_add]; rfl
  have hnum : (BitVec.ofNat 6 (r + 1)).toNat = r + 1 := by simp; omega
  simp only [runOrchestrator, orchestratorStep, hph, phaseAC, phaseSC, phaseSR, phaseMC, hr, BitVec.toNat_ofNat,
    Nat.reducePow, hmod, hnext]
  rw [BitVec.toNat_ofNat] at hnum
  rw [hnum]
  by_cases hm : (r + 1) % 4 = 0 <;> simp only [hm, ↓reduceIte, roundFn]

/-- The whitening reads the same key nibbles from the 32-cell register as from the key array it holds. -/
theorem addKey_keyRegister {N : List Nibble} {kb : BitVec 8} (hkb : kb = 64 ∨ kb = 128)
    (hN : N.length = kb.toNat / 4) (S : CellMatrix) (step : Nat) :
    addKey S (keyRegister N).toList step kb = addKey S N step kb := by
  have h : 0 < kb.toNat / 4 ∧ kb.toNat / 4 ≤ 32 := by rcases hkb with rfl | rfl <;> simp
  apply cells_ext
  intro r c
  simp only [Fin.getElem_fin, addKey_get]
  rw [keyNibble_keyRegister h.1 hN h.2]

end Sys2Proof.Machine
end

