-- ==== Sys2Proof/Laws/PerInstr.lean ====
section
/-! SUPPORT. Statements about every command as syntax, one lemma per constructor. FixedBits: the word of a command matches
its own row of the opcode table, and no other row has its opcode. -/

namespace Sys2Proof.Laws

/-- The command's word agrees with its opcode's match value under its mask (R95). -/
def FixedBits.Statement (i : Instr) : Prop :=
  ∃ row ∈ opTable, row.op = i.opcode ∧ fieldOP (encode i) = i.opcode ∧ encode i &&& row.mask = row.matchWord

theorem FixedBits.gfmul (a b : Nibble) : FixedBits.Statement (.gfmul a b) := by
  refine ⟨opTable[0], List.getElem_mem _, rfl, ?_, ?_⟩ <;>
    (apply BitVec.eq_of_getLsbD_eq; intro k hk; interval_cases k <;> simp [fieldOP, encode, opTable, Instr.opcode])

theorem FixedBits.loadpt (blen : BitVec 4) : FixedBits.Statement (.loadpt blen) := by
  refine ⟨opTable[1], List.getElem_mem _, rfl, ?_, ?_⟩ <;>
    (apply BitVec.eq_of_getLsbD_eq; intro k hk; interval_cases k <;> simp [fieldOP, encode, opTable, Instr.opcode])

theorem FixedBits.loadkey (kb : BitVec 8) (klen : BitVec 5) : FixedBits.Statement (.loadkey kb klen) := by
  refine ⟨opTable[2], List.getElem_mem _, rfl, ?_, ?_⟩ <;>
    (apply BitVec.eq_of_getLsbD_eq; intro k hk; interval_cases k <;> simp [fieldOP, encode, opTable, Instr.opcode])

theorem FixedBits.addkey (step : BitVec 6) : FixedBits.Statement (.addkey step) := by
  refine ⟨opTable[3], List.getElem_mem _, rfl, ?_, ?_⟩ <;>
    (apply BitVec.eq_of_getLsbD_eq; intro k hk; interval_cases k <;> simp [fieldOP, encode, opTable, Instr.opcode])

theorem FixedBits.addconst (r : BitVec 6) : FixedBits.Statement (.addconst r) := by
  refine ⟨opTable[4], List.getElem_mem _, rfl, ?_, ?_⟩ <;>
    (apply BitVec.eq_of_getLsbD_eq; intro k hk; interval_cases k <;> simp [fieldOP, encode, opTable, Instr.opcode])

theorem FixedBits.subcells : FixedBits.Statement .subcells :=
  ⟨opTable[5], List.getElem_mem _, rfl, rfl, rfl⟩

theorem FixedBits.shiftrows : FixedBits.Statement .shiftrows :=
  ⟨opTable[6], List.getElem_mem _, rfl, rfl, rfl⟩

theorem FixedBits.mixcol : FixedBits.Statement .mixcol :=
  ⟨opTable[7], List.getElem_mem _, rfl, rfl, rfl⟩

theorem FixedBits.readout : FixedBits.Statement .readout :=
  ⟨opTable[8], List.getElem_mem _, rfl, rfl, rfl⟩

theorem FixedBits.encrypt (kb : BitVec 8) (blen : BitVec 4) (klen : BitVec 5) :
    FixedBits.Statement (.encrypt kb blen klen) := by
  refine ⟨opTable[9], List.getElem_mem _, rfl, ?_, ?_⟩ <;>
    (apply BitVec.eq_of_getLsbD_eq; intro k hk; interval_cases k <;> simp [fieldOP, encode, opTable, Instr.opcode])

end Sys2Proof.Laws
end

