-- ==== Sys2Proof/Tests/Slice0.lean ====
section
/-! SUPPORT. The model's own tests. Expected values are the spec's: 95_test_vectors.md unless a comment names another place. A
witness shows that the hypotheses of one statement can be met together. -/

namespace Sys2Proof.Tests

open Sys2Proof.Machine

/-- The answer is a next state that satisfies p. -/
def after (r : Result) (p : State → Bool) : Bool :=
  match r with
  | .next t => p t
  | .fault _ => false
  | .refused _ => false

/-- The reset state with the two ports driven. -/
def ports (block : Block) (key : KeyWord) : State := { State.reset with DIN_BLOCK := block, DIN_KEY := key }

/-- A state with the matrix of a block and a key loaded, as LOADPT and LOADKEY leave it. -/
def loaded (block : Block) (key : KeyWord) (kb : BitVec 8) : State :=
  { State.reset with
    S := pack (blockBytes block), SV := true
    K := keyRegister (deriveKeyNibbles (keyBytes key) kb.toNat), KBR := kb, KV := true }

/-- The reset state of a core without the step port. -/
def noSteps : State := { State.reset with cfg := { defaultConfig with STEP_PORT := false } }

/-- The matrix of the answer as the 64-bit value unpack(S), and STATUS. -/
def shows (S : Block) (status : BitVec 16) (t : State) : Bool := t.S == pack (blockBytes S) && STATUS t == status

/-! ## WellFormed and the decoder -/

theorem test_step_commands_are_ill_formed_without_step_port :
    [Instr.gfmul 1 2, .loadpt 8, .loadkey 64 8, .addkey 0, .addconst 0, .subcells, .shiftrows, .mixcol, .readout].all
      (fun i => !i.wellFormed false && i.wellFormed true) = true := by decide

theorem test_encrypt_is_well_formed_without_step_port : (Instr.encrypt 64 8 8).wellFormed false = true := by decide

-- Each word is written bit by bit from its pattern in R95.
theorem test_decode_gfmul : decode true 0b00000000000000000000111010010001 = .ok (.gfmul 0x9 0xE) := by decide
theorem test_decode_loadpt : decode true 0b00000000000000000111000000000010 = .ok (.loadpt 7) := by decide
theorem test_decode_loadkey : decode true 0b00000000000111110000010000000011 = .ok (.loadkey 64 31) := by decide
theorem test_decode_addkey : decode true 0b00000111111000000000000000000100 = .ok (.addkey 63) := by decide
theorem test_decode_addconst : decode true 0b00000100000000000000000000000101 = .ok (.addconst 32) := by decide
theorem test_decode_subcells : decode true 0b00000000000000000000000000000110 = .ok .subcells := by decide
theorem test_decode_shiftrows : decode true 0b00000000000000000000000000000111 = .ok .shiftrows := by decide
theorem test_decode_mixcol : decode true 0b00000000000000000000000000001000 = .ok .mixcol := by decide
theorem test_decode_readout : decode true 0b00000000000000000000000000001001 = .ok .readout := by decide
theorem test_decode_encrypt : decode true 0b00000000000111111111111111111010 = .ok (.encrypt 255 15 31) := by decide

-- Section 3.11.
theorem test_illegal_words :
    [0x00000000, 0x0000000B, 0x0000000F, 0xFFFFFFFF, 0x08000006, 0x00000016, 0x00001001, 0x00008102, 0x00081403,
      0x00200014, 0x08000005, 0x0028840A, 0x80000009].all
      (fun w => (decode true w).toOption == none && decide (illegalWord true w)) = true := by decide

theorem test_step_words_illegal_without_step_port :
    [0x00000E91, 0x00008002, 0x00080403, 0x4, 0x5, 0x6, 0x7, 0x8, 0x9].all
      (fun w => decode false w == .error .noStepPort) = true ∧
    decode false 0x0008840A = .ok (.encrypt 64 8 8) := by decide

-- The words of 92/95 for the syntax of R99.
theorem test_encode_words :
    encode (.gfmul 0x9 0xE) = 0x00000E91 ∧ encode (.loadpt 8) = 0x00008002 ∧ encode (.loadkey 128 16) = 0x00100803 ∧
    encode (.addkey 13) = 0x01A00004 ∧ encode (.addconst 47) = 0x05E00005 ∧
    encode (.encrypt 96 8 12) = 0x000C860A := by decide

theorem test_decodeTableWord : decodeTableWord 32 0x00080403 = some (.loadkey 64 8) ∧ decodeTableWord 32 0 = none := by
  decide

/-! ## The commands -/

theorem test_gfmul : after (exec (.gfmul 0x9 0xE) State.reset) (fun t => t.GFR == 0x7 && STATUS t == 0) = true := by decide
theorem test_gfmul_reduces : after (exec (.gfmul 0xF 0xF) State.reset) (fun t => t.GFR == 0xA) = true := by decide

theorem test_loadpt :
    after (exec (.loadpt 8) (ports 0x0123456789ABCDEF 0))
      (fun t => t.S == #v[#v[0, 1, 2, 3], #v[4, 5, 6, 7], #v[8, 9, 0xA, 0xB], #v[0xC, 0xD, 0xE, 0xF]] &&
        STATUS t == 0x0008) = true := by decide
theorem test_loadpt_length : after (exec (.loadpt 7) (ports 0x0123456789ABCDEF 0)) (shows 0 0x0042) = true := by decide

theorem test_loadkey64 :
    after (exec (.loadkey 64 31) (ports 0 0x00112233445566778899AABBCCDDEEFF))
      (fun t => t.K.toList == [0, 0, 1, 1, 2, 2, 3, 3, 4, 4, 5, 5, 6, 6, 7, 7] ++ List.replicate 16 0 &&
        STATUS t == 0x4010) = true := by decide
theorem test_loadkey_short : after (exec (.loadkey 128 8) (ports 0 0x11)) (shows 0 0x0043) = true := by decide

theorem test_addkey_odd_step :
    after (exec (.addkey 13) (loaded 0x0123456789ABCDEF 0x0123456789ABCDEFFEDCBA9876543210 128))
      (shows 0xFFFFFFFFFFFFFFFF 0x8018) = true := by decide
theorem test_addkey_needs_state_first : after (exec (.addkey 0) State.reset) (shows 0 0x0046) = true := by decide

theorem test_addconst :
    after (exec (.addconst 47) (loaded 0 0 128)) (shows 0x8000940020003400 0x8018) = true := by decide
theorem test_addconst_range : after (exec (.addconst 48) (loaded 0 0 64)) (shows 0 0x405F) = true := by decide

theorem test_subcells :
    after (exec .subcells (loaded 0x0123456789ABCDEF 0 64)) (shows 0xC56B90AD3EF84712 0x4018) = true := by decide
theorem test_shiftrows :
    after (exec .shiftrows (loaded 0x0123456789ABCDEF 0 64)) (shows 0x01235674AB89FCDE 0x4018) = true := by decide
theorem test_mixcol :
    after (exec .mixcol (loaded 0x0123456789ABCDEF 0 64)) (shows 0xC963B62F428E40C8 0x4018) = true := by decide
theorem test_mixcol_columns_apart :
    after (exec .mixcol (loaded 0x0001000000000000 0 64)) (shows 0x00040008000B0002 0x4018) = true := by decide

theorem test_readout :
    after (exec .readout (loaded 0xF0E1D2C3B4A59687 0 64)) (fun t => t.DOUT == 0xF0E1D2C3B4A59687 && t.OV) = true := by
  decide
theorem test_readout_unloaded : after (exec .readout State.reset) (shows 0 0x0046) = true := by decide

-- Section 2.1 and section 2.2: the halves of an LED-128 key act differently.
theorem test_encrypt64 :
    after (exec (.encrypt 64 8 8) (ports 0x0123456789ABCDEF 0x0123456789ABCDEF0000000000000000))
      (fun t => t.DOUT == 0xA003551E3893FC58 && STATUS t == 0x0020 && decide (t.enc = Orchestrator.idle)) = true := by
  decide +kernel
theorem test_encrypt128 :
    after (exec (.encrypt 128 8 16) (ports 0x0123456789ABCDEF 0x00000000000000000123456789ABCDEF))
      (fun t => t.DOUT == 0x5C6A57168592675D && STATUS t == 0x0020) = true := by decide +kernel

/-! ## The step, the host and the assembler -/

theorem test_step_runs_fetch_word :
    after (step (State.reset.withFetchWord 32 0x00000E91)) (fun t => t.GFR == 0x7 && decide (t.events = [])) = true := by
  decide
theorem test_step_illegal_word :
    after (step (State.reset.withFetchWord 32 0x80000E91)) (fun t => t.GFR == 0 && STATUS t == 0x0044) = true := by decide

-- R280: reset clears the registers; the model's ports stay (log 11).
theorem test_reset_event :
    after (step { loaded 0x1 0x1 64 with ERRS := true, events := [.reset] }) (fun t => decide (t = State.reset)) = true := by
  decide

theorem test_idle : after (step (loaded 1 1 64)) (fun t => decide (t = loaded 1 1 64)) = true := by decide

-- R99, R101 and the words of section 4.4.
theorem test_assemble_text :
    assemble "gfmul 0x9, 0xE ; product\n\n loadpt\nround 2" =
      some [.issue 0x00000E91, .issue 0x00008002, .issue 0x00400005, .issue 6, .issue 7, .issue 8] := by decide
-- R99: an operand that does not fit its field; a value that fits is accepted though it raises an error when run.
theorem test_assemble_fields :
    [assemble "gfmul 16, 0", assemble "loadpt 16", assemble "loadkey 256, 8", assemble "loadkey 64, 32", assemble "addkey 64",
      assemble "addconst 64"] = List.replicate 6 none ∧
    assemble "encrypt 96, 8, 12" = some [.issue 0x000C860A] := by decide
-- R100.
theorem test_assemble_directives :
    assemble ".block 0x0123456789ABCDEF\n.key 0x0123456789ABCDEF" =
      some [.driveBlock 0x0123456789ABCDEF, .driveKey 0x0123456789ABCDEF0000000000000000] := by decide
-- Sections 4.4 and 4.5: 140 and 208 commands.
theorem test_stepenc_lengths : stepenc64.length = 140 ∧ stepenc128.length = 208 := by decide +kernel

/-! ## Witnesses: the hypotheses of the statements can be met -/

theorem witness_DecodeOfEncode : (Instr.encrypt 255 15 31).wellFormed false = true ∧ (Instr.gfmul 15 15).wellFormed true = true := by
  decide
theorem witness_EncodeOfDecode : decode false 0x001FFFFA = .ok (.encrypt 255 15 31) ∧ decode true 0x07E00004 = .ok (.addkey 63) := by
  decide
theorem witness_StepRunsTheDecodedCommand :
    (State.reset.withFetchWord 32 0x07E00005).events = .issue 0x07E00005 :: [] ∧
    decode (State.reset.withFetchWord 32 0x07E00005).cfg.STEP_PORT 0x07E00005 = .ok (.addconst 63) := by decide
-- One word for each of R97's three conditions: OP = 0xB, a set RSV bit, and STEP_PORT = false with OP = 0x9.
theorem witness_IllegalWordRaisesIllegalCommand :
    (State.reset.withFetchWord 32 0xB).events = .issue 0xB :: [] ∧ (0xB : Nat) ≤ (fieldOP 0xB).toNat ∧
    (State.reset.withFetchWord 32 0x08000006).events = .issue 0x08000006 :: [] ∧
    (∃ row ∈ formatZeroBits, fieldOP 0x08000006 = row.1 ∧ (0x08000006 : Word) &&& row.2 ≠ 0) ∧
    (noSteps.withFetchWord 32 0x9).events = .issue 0x9 :: [] ∧
    (noSteps.withFetchWord 32 0x9).cfg.STEP_PORT = false ∧ fieldOP 0x9 ≠ 0xA := by decide
theorem witness_IllegalWordsAreThoseOfTheThreeKinds :
    noSteps.cfg.STEP_PORT = false ∧ ∃ t, issue 0x9 noSteps = .next t := ⟨rfl, _, rfl⟩
theorem witness_IdleKeepsAllState : State.reset.events = [] := rfl
theorem witness_DirectivesOnlyDriveTheirPort :
    ({ State.reset with events := [.driveBlock 1, .driveKey 1] } : State).events = .driveBlock 1 :: [.driveKey 1] ∧
    ({ State.reset with events := [.driveKey 1] } : State).events = .driveKey 1 :: [] := ⟨rfl, rfl⟩
theorem witness_ResetSetsEveryRegister :
    ({ loaded 1 1 128 with events := [.reset] } : State).events = .reset :: [] := rfl
theorem witness_ResetKeepsTheHostSide :
    ({ ports 1 1 with events := [.reset, .issue 6] } : State).events = .reset :: [.issue 6] := rfl
theorem witness_ErrorOutcomeIsPrecise :
    (∃ t, exec (.loadpt 9) State.reset = .next t ∧ t.ERR ≠ .noError) ∧
    ∃ t, issue 0xB State.reset = .next t ∧ t.ERR ≠ .noError := ⟨⟨_, rfl, by decide⟩, _, rfl, by decide⟩
theorem witness_CompletionLeavesErrs :
    ∃ t, exec (.loadpt 8) { State.reset with ERRS := true } = .next t ∧ t.ERR = .noError := ⟨_, rfl, by decide⟩
theorem witness_FirstFailedCheckIsReported :
    (∃ t, issue 0x0000760A State.reset = .next t) ∧ firstError 0x0000760A State.reset = .configError ∧
    firstError 0x0000080A State.reset = .blockLengthError ∧ firstError 0x06400005 State.reset = .stateNotLoaded := by
  refine ⟨⟨_, rfl⟩, ?_⟩
  decide
-- kb = 96, 65 (just above 64) and 129 (just above 128), on both commands.
theorem witness_ConfigErrorOnIllegalKeySize :
    decode true 0x000C0603 = .ok (.loadkey 96 12) ∧ decode true 0x00080413 = .ok (.loadkey 65 8) ∧
    decode true 0x0010881A = .ok (.encrypt 129 8 16) ∧ (65 : BitVec 8) ≠ 64 ∧ (129 : BitVec 8) ≠ 128 := by decide
theorem witness_BlockLengthErrorUnlessEight :
    decode true 0x00007002 = .ok (.loadpt 7) ∧ decode true 0x0008940A = .ok (.encrypt 64 9 8) ∧ (9 : BitVec 4) ≠ 8 := by
  decide
theorem witness_KeyLengthErrorOnShortKey :
    decode true 0x00070403 = .ok (.loadkey 64 7) ∧ decode true 0x000F880A = .ok (.encrypt 128 8 15) ∧
    (7 : BitVec 5).toNat < 8 ∧ (15 : BitVec 5).toNat < 16 ∧
    decode true 0x000C0603 = .ok (.loadkey 96 12) ∧ (96 : BitVec 8) ≠ 64 ∧ (96 : BitVec 8) ≠ 128 := by decide
theorem witness_StateNotLoadedWhileSvIsClear :
    State.reset.SV = false ∧ (∃ step, Instr.addkey 63 = .addkey step) ∧ ∃ r, Instr.addconst 63 = .addconst r :=
  ⟨rfl, ⟨63, rfl⟩, 63, rfl⟩
theorem witness_KeyNotLoadedWhileKvIsClear :
    ({ State.reset with SV := true } : State).SV = true ∧ ({ State.reset with SV := true } : State).KV = false ∧
    (∃ r, Instr.addconst 48 = .addconst r) := ⟨rfl, rfl, 48, rfl⟩
theorem witness_RangeErrorFromFortyEight :
    decode (loaded 0 0 64).cfg.STEP_PORT 0x06000005 = .ok (.addconst 48) ∧
    decode (loaded 0 0 64).cfg.STEP_PORT 0x07E00005 = .ok (.addconst 63) ∧
    (loaded 0 0 64).SV = true ∧ (loaded 0 0 64).KV = true ∧
    48 ≤ (48 : BitVec 6).toNat ∧ 48 ≤ (63 : BitVec 6).toNat := by decide
theorem witness_EncryptReportsOnlyTheDocumentsErrors :
    (∃ t, exec (.encrypt 96 8 12) State.reset = .next t) ∧ ∃ kb blen klen, Instr.encrypt 96 8 12 = .encrypt kb blen klen :=
  ⟨⟨_, rfl⟩, 96, 8, 12, rfl⟩
theorem witness_ErrsIsSticky :
    (∃ t, issue 0 State.reset = .next t ∧ t.ERR ≠ .noError) ∧
    (∃ t, step { State.reset with ERRS := true, events := [.reset] } = .next t ∧ t.ERRS = false) ∧
    State.reset.ERRS = false ∧ HostEvent.reset ∉ (State.reset.withFetchWord 32 0x7002).events.take 1 ∧
    ∃ t, runsTo 1 (State.reset.withFetchWord 32 0x7002) t ∧ t.ERRS = true :=
  ⟨⟨_, rfl, by decide⟩, ⟨_, rfl, rfl⟩, rfl, by decide, _, rfl, rfl⟩
-- The least KLEN for each key size, and the greatest.
theorem witness_LoadkeyResult :
    (64 : BitVec 8).toNat / 8 ≤ (8 : BitVec 5).toNat ∧ (128 : BitVec 8).toNat / 8 ≤ (16 : BitVec 5).toNat ∧
    (128 : BitVec 8).toNat / 8 ≤ (31 : BitVec 5).toNat ∧ ((64 : BitVec 8) = 64 ∨ (64 : BitVec 8) = 128) ∧
    ((128 : BitVec 8) = 64 ∨ (128 : BitVec 8) = 128) := by decide
theorem witness_AddkeyResult :
    (loaded 1 1 64).SV = true ∧ (loaded 1 1 64).KV = true ∧ ((loaded 1 1 64).KBR = 64 ∨ (loaded 1 1 64).KBR = 128) ∧
    ((loaded 1 1 128).KBR = 64 ∨ (loaded 1 1 128).KBR = 128) := by decide
theorem witness_AddconstResult :
    (loaded 1 1 64).SV = true ∧ (loaded 1 1 64).KV = true ∧ (47 : BitVec 6).toNat < 48 ∧ (0 : BitVec 6).toNat < 48 := by
  decide
theorem witness_SubcellsResult : (loaded 1 1 64).SV = true := rfl
theorem witness_ShiftrowsResult : (loaded 1 1 64).SV = true := rfl
theorem witness_MixcolResult : (loaded 1 1 64).SV = true := rfl
theorem witness_ReadoutResult : (loaded 1 1 64).SV = true := rfl
theorem witness_EncryptResult :
    ((64 : BitVec 8) = 64 ∨ (64 : BitVec 8) = 128) ∧ ((128 : BitVec 8) = 64 ∨ (128 : BitVec 8) = 128) ∧
    (128 : BitVec 8).toNat / 8 ≤ (16 : BitVec 5).toNat ∧
    (64 : BitVec 8).toNat / 8 ≤ (8 : BitVec 5).toNat := by decide
theorem witness_RegistersAreWrittenByTheirCommandsOnly :
    (∃ t, exec (.gfmul 3 7) (loaded 1 1 64) = .next t) ∧ (Instr.gfmul 3 7).opcode ∉ [0x2, 0x4, 0x5, 0x6, 0x7, 0x8] ∧
    (∃ t, exec .mixcol (loaded 1 1 64) = .next t) ∧ Instr.mixcol.opcode ∉ [0x9, 0xA] ∧ Instr.mixcol.opcode ≠ 0x1 :=
  ⟨⟨_, rfl⟩, by decide, ⟨_, rfl⟩, by decide, by decide⟩
theorem witness_ValidFlagsAreClearedByResetOnly :
    ∃ t, step { loaded 1 1 64 with events := [.reset] } = .next t ∧
      ((loaded 1 1 64).SV = true ∧ t.SV = false) ∧ ((loaded 1 1 64).KV = true ∧ t.KV = false) :=
  ⟨_, rfl, ⟨rfl, rfl⟩, rfl, rfl⟩
theorem witness_OutputValidRule :
    (∃ t, issue 0xB (loaded 1 1 64) = .next t ∧ t.ERR ≠ .noError) ∧
    ∃ t, exec .readout (loaded 1 1 64) = .next t ∧ t.OV = true := ⟨⟨_, rfl, by decide⟩, _, rfl, rfl⟩
theorem witness_TablesNeverChange : ∃ t, runsTo 1 (State.reset.withFetchWord 32 0x8002) t := ⟨_, rfl⟩
theorem witness_UnusedPortsAreIgnored :
    (∃ t, exec (.loadkey 64 8) State.reset = .next t) ∧ (Instr.loadkey 64 8).opcode ∉ [0x2, 0xA] ∧
    (∃ t, exec (.loadpt 8) State.reset = .next t) ∧ (Instr.loadpt 8).opcode ∉ [0x3, 0xA] :=
  ⟨⟨_, rfl⟩, by decide, ⟨_, rfl⟩, by decide⟩
theorem witness_LowKeyHalfIsIgnoredByLed64 :
    (0x0123456789ABCDEFFFFFFFFFFFFFFFFF : KeyWord).extractLsb' 64 64 =
      (ports 0 0x0123456789ABCDEF0000000000000000).DIN_KEY.extractLsb' 64 64 ∧
    (∃ t, exec (.loadkey 64 8) (ports 0 0x0123456789ABCDEF0000000000000000) = .next t) := ⟨by decide, _, rfl⟩
theorem witness_EncryptDependsOnItsPortsOnly :
    (ports 1 1).cfg = ({ ports 1 1 with SV := true, ERRS := true } : State).cfg ∧
    (∃ t, exec (.encrypt 64 8 8) (ports 1 1) = .next t) ∧
    ∃ t, exec (.encrypt 64 8 8) { ports 1 1 with SV := true, ERRS := true } = .next t := ⟨rfl, ⟨_, rfl⟩, _, rfl⟩
theorem witness_LatencyDoesNotDependOnData :
    (loaded 1 1 64).cfg.STEP_PORT = (loaded 2 3 128).cfg.STEP_PORT ∧ (loaded 1 1 64).SV = (loaded 2 3 128).SV ∧
    (loaded 1 1 64).KV = (loaded 2 3 128).KV := by decide
theorem witness_InvariantIsKeptByEveryStep :
    State.Inv State.reset ∧ ∃ t, step (State.reset.withFetchWord 32 0x00080403) = .next t :=
  ⟨⟨by decide, by simp [State.reset], by simp [State.reset], by simp [State.reset], by simp [State.reset],
    by simp [State.reset], by simp [State.reset], rfl⟩, _, rfl⟩
theorem witness_GfmulLaws : gfmul 9 2 = 1 ∧ (9 : Nibble) ≠ 0 := by decide
theorem witness_AddKeyIsAnInvolution :
    (loaded 1 1 64).SV = true ∧ (loaded 1 1 64).KV = true ∧
    ∃ t, execAll [.addkey 5, .addkey 5] (loaded 1 1 64) = .next t := ⟨rfl, rfl, _, rfl⟩
theorem witness_SubCellsIsBijective : defaultConfig.sboxIsPermutation = true := by decide
theorem witness_DefaultMixColumnsIsBijective : defaultConfig.MD = defaultMD := rfl
theorem witness_LayersKeepToColumnsAndRows :
    ∀ i : Fin 4, (pack (blockBytes 0x0001000000000000))[i][(0 : Fin 4)] = zeroMatrix[i][(0 : Fin 4)] := by decide
theorem witness_OrchestratorTransitions :
    ((64 : BitVec 8) = 64 ∨ (64 : BitVec 8) = 128) ∧ ((128 : BitVec 8) = 64 ∨ (128 : BitVec 8) = 128) ∧
    (loaded 1 1 64).enc.WS = (loaded 2 2 128).enc.WS ∧ (loaded 1 1 64).enc.EKB = (loaded 2 2 128).enc.EKB ∧
    (loaded 1 1 64).enc.PH = (loaded 2 2 128).enc.PH ∧ (loaded 1 1 64).enc.RND = (loaded 2 2 128).enc.RND := by decide
theorem witness_OrchestratorComputesEncryptFn :
    ((64 : BitVec 8) = 64 ∨ (64 : BitVec 8) = 128) ∧ ((128 : BitVec 8) = 64 ∨ (128 : BitVec 8) = 128) := by decide
theorem witness_EncryptionIsInjectiveInTheBlock :
    defaultConfig.sboxIsPermutation = true ∧ defaultConfig.MD = defaultMD ∧ ((128 : BitVec 8) = 64 ∨ (128 : BitVec 8) = 128) := by
  decide
-- A key of 20 bytes: the port carries 16 of them.
theorem witness_EncryptCommandImplementsTheOperation :
    let block := (blockBytes 0x0123456789ABCDEF).toList
    let key := keyBytes 0x00112233445566778899AABBCCDDEEFF ++ List.replicate 4 0
    let s := ports 0x0123456789ABCDEF 0x00112233445566778899AABBCCDDEEFF
    block.length = (8 : BitVec 4).toNat ∧ key.length = (20 : BitVec 5).toNat ∧
    block.take 8 = (blockBytes s.DIN_BLOCK).toList.take block.length ∧
    key.take 16 = (keyBytes s.DIN_KEY).take key.length := by decide

end Sys2Proof.Tests
end

section
/-! The ENCRYPT command against the document's Encrypt: the state machine computes encryptFn, group by group, and encryptFn
reads no more of the key than the port carries. -/

namespace Sys2Proof.Machine

/-! ## The state machine computes encryptFn (R222) -/

/-- The hidden registers after g groups of rounds, before the next round or OUT: the whitening of step g is done, and the
counters stand at 4g rounds and whitening step g. -/
def orchestratorAfterGroups (cfg : Config) (block : Vector Byte 8) (bytes : List Byte) (kb : BitVec 8) (g : Nat) :
    Orchestrator :=
  let N := deriveKeyNibbles bytes kb.toNat
  { ES := (List.range g).foldl (groupFn cfg N kb) (addKey (pack block) N 0 kb)
    EK := keyRegister N
    EKB := kb
    RND := BitVec.ofNat 6 (4 * g)
    WS := BitVec.ofNat 4 g
    PH := if 4 * g = roundCount kb.toNat then .out else .ac }

theorem roundCount_eq_four_mul_groupCount (kb : Nat) : roundCount kb = 4 * groupCount kb := by
  unfold groupCount roundCount
  split <;> rfl

theorem groupCount_le (kb : Nat) : groupCount kb ≤ 12 := by
  unfold groupCount roundCount
  split <;> decide

/-- The first transition is the whitening of step 0. -/
theorem orchestratorStep_start (s : State) (block : Vector Byte 8) (bytes : List Byte) {kb : BitVec 8}
    (hkb : kb = 64 ∨ kb = 128) :
    orchestratorStep { s with enc := startOrchestrator block bytes kb } =
      { s with enc := orchestratorAfterGroups s.cfg block bytes kb 0 } := by
  have hkey := addKey_keyRegister hkb (deriveKeyNibbles_length bytes kb.toNat) (pack block) 0
  simp [orchestratorStep, startOrchestrator, phaseAK, orchestratorAfterGroups, hkey]

/-- From AC at the start of group g, k < 4 rounds leave the machine in AC of the same group, with their effect in ES. -/
theorem runOrchestrator_rounds (s : State) (g k : Nat) (hph : s.enc.PH = .ac)
    (hr : s.enc.RND = BitVec.ofNat 6 (4 * g)) (hg : g < 12) (hk : k < 4) :
    runOrchestrator (4 * k) s = { s with
      enc := { s.enc with
        ES := (List.range k).foldl (fun T sub => roundFn s.cfg s.enc.EKB (g * 4 + sub) T) s.enc.ES
        RND := BitVec.ofNat 6 (4 * g + k) } } := by
  induction k with
  | zero => simp [runOrchestrator, ← hr]
  | succ k ih =>
    have hmid : ¬ (k + 1) % 4 = 0 := by omega
    rw [Nat.mul_succ, runOrchestrator_add, ih (by omega),
      runOrchestrator_round _ (4 * g + k) (by exact hph) rfl (by omega)]
    simp [hmid, hph, List.range_succ, Nat.mul_comm g 4, Nat.add_assoc]

/-- The fourth round of a group moves on to the next whitening. -/
theorem runOrchestrator_fourRounds (s : State) (g : Nat) (hph : s.enc.PH = .ac)
    (hr : s.enc.RND = BitVec.ofNat 6 (4 * g)) (hg : g < 12) :
    runOrchestrator 16 s = { s with
      enc := { s.enc with
        ES := (List.range 4).foldl (fun T sub => roundFn s.cfg s.enc.EKB (g * 4 + sub) T) s.enc.ES
        RND := BitVec.ofNat 6 (4 * (g + 1))
        WS := s.enc.WS + 1
        PH := .ak } } := by
  have hend : (4 * g + 3 + 1) % 4 = 0 := by omega
  rw [runOrchestrator_add (4 * 3) 4, runOrchestrator_rounds s g 3 hph hr hg (by omega),
    runOrchestrator_round _ (4 * g + 3) (by exact hph) rfl (by omega)]
  simp [hend, List.range_succ, Nat.mul_comm g 4, Nat.mul_add]

/-- Seventeen transitions make one group: its four rounds and the whitening after them. -/
theorem runOrchestrator_group (s : State) (block : Vector Byte 8) (bytes : List Byte) {kb : BitVec 8}
    (hkb : kb = 64 ∨ kb = 128) {g : Nat} (hg : g < groupCount kb.toNat) :
    runOrchestrator 17 { s with enc := orchestratorAfterGroups s.cfg block bytes kb g } =
      { s with enc := orchestratorAfterGroups s.cfg block bytes kb (g + 1) } := by
  have hcount := roundCount_eq_four_mul_groupCount kb.toNat
  have hg12 : g < 12 := Nat.lt_of_lt_of_le hg (groupCount_le kb.toNat)
  have hac : ¬ 4 * g = roundCount kb.toNat := by omega
  have hrnd : 4 * (g + 1) % 64 = 4 * (g + 1) := by omega
  have hws : (g + 1) % 16 = g + 1 := by omega
  have hkey := addKey_keyRegister hkb (deriveKeyNibbles_length bytes kb.toNat)
  rw [runOrchestrator_succ 16, runOrchestrator_fourRounds _ g (if_neg hac) rfl hg12]
  simp [orchestratorStep, phaseAK, orchestratorAfterGroups, List.range_succ, groupFn, hkey, hrnd, hws, BitVec.ofNat_add]

/-- From its start the machine stands after g groups once it has made one whitening and g times seventeen transitions. -/
theorem runOrchestrator_groups (s : State) (block : Vector Byte 8) (bytes : List Byte) {kb : BitVec 8}
    (hkb : kb = 64 ∨ kb = 128) (g : Nat) (hg : g ≤ groupCount kb.toNat) :
    runOrchestrator (1 + 17 * g) { s with enc := startOrchestrator block bytes kb } =
      { s with enc := orchestratorAfterGroups s.cfg block bytes kb g } := by
  induction g with
  | zero => exact orchestratorStep_start s block bytes hkb
  | succ g ih =>
    rw [Nat.mul_succ, ← Nat.add_assoc, runOrchestrator_add, ih (by omega)]
    exact runOrchestrator_group s block bytes hkb hg

/-- From its start the state machine ends with encryptFn of the block and key in DOUT, and every register outside the
result as it was. -/
theorem runOrchestrator_start (s : State) (block : Vector Byte 8) (bytes : List Byte) {kb : BitVec 8}
    (hkb : kb = 64 ∨ kb = 128) :
    runOrchestrator (transitionCount kb.toNat) { s with enc := startOrchestrator block bytes kb } =
      { s with DOUT := blockOfBytes (encryptFn s.cfg block bytes kb), OV := true, ERR := .noError,
               enc := Orchestrator.idle } := by
  have hout : (orchestratorAfterGroups s.cfg block bytes kb (groupCount kb.toNat)).PH = .out :=
    if_pos (roundCount_eq_four_mul_groupCount kb.toNat).symm
  rw [transitionCount, runOrchestrator_succ, runOrchestrator_groups s block bytes hkb _ le_rfl]
  simp only [orchestratorStep, hout]
  rfl

/-! ## What encryptFn reads of the key -/

/-- The nibbles of a key array come from its first kb/8 bytes (R150). -/
theorem deriveKeyNibbles_congr {a b : List Byte} {kb : Nat} (hkb : 8 ∣ kb) (h : ∀ j < kb / 8, a[j]? = b[j]?) :
    deriveKeyNibbles a kb = deriveKeyNibbles b kb := by
  refine List.map_congr_left fun n hn => ?_
  have hj : n / 2 < kb / 8 := by have := List.mem_range.mp hn; omega
  simp only [nibbleOf, List.getD_eq_getElem?_getD, h _ hj]

/-- Key bytes that stand on DIN_KEY as far as it carries them give the port's key nibbles, once they are enough for kb. -/
theorem deriveKeyNibbles_of_onPort {key : List Byte} {v : KeyWord} {kb : Nat} (hkb : kb = 64 ∨ kb = 128)
    (hlen : kb / 8 ≤ key.length) (hport : key.take 16 = (keyBytes v).take key.length) :
    deriveKeyNibbles (keyBytes v) kb = deriveKeyNibbles key kb := by
  refine deriveKeyNibbles_congr (by omega) fun j hj => ?_
  calc (keyBytes v)[j]? = ((keyBytes v).take key.length)[j]? := (List.getElem?_take_of_lt (by omega)).symm
    _ = (key.take 16)[j]? := by rw [hport]
    _ = key[j]? := List.getElem?_take_of_lt (by omega)

/-! ## The command and the operation, check by check (R249) -/

theorem keySizeLegal_iff (kb : BitVec 8) : keySizeLegal kb.toNat = true ↔ kb = 64 ∨ kb = 128 := by
  simp [keySizeLegal, BitVec.toNat_eq]

/-- Encrypt with a legal key size, a block of 8 bytes and enough key bytes gives encryptFn of them. -/
theorem encryptOperation_of_legal (cfg : Config) (B : Vector Byte 8) (key : List Byte) (kb : BitVec 8)
    (hsize : keySizeLegal kb.toNat = true) (hlen : keyLengthLegal kb.toNat key.length = true) :
    encryptOperation cfg B.toList key kb.toNat = .ok (encryptFn cfg B key kb) := by
  simp [encryptOperation, hsize, hlen, Vector.toList]

/-- ENCRYPT with its checks passed ends with encryptFn of the ports in DOUT. -/
theorem exec_encrypt_of_legal (s : State) {kb : BitVec 8} {klen : BitVec 5}
    (hsize : keySizeLegal kb.toNat = true) (hlen : keyLengthLegal kb.toNat klen.toNat = true) :
    exec (.encrypt kb 8 klen) s = .next { s with
      DOUT := blockOfBytes (encryptFn s.cfg (blockBytes s.DIN_BLOCK) (keyBytes s.DIN_KEY) kb), OV := true,
      ERR := .noError, enc := Orchestrator.idle } := by
  have hpass : ∀ c ∈ checksOf s (.encrypt kb 8 klen), c.1 = true := by
    simp [checksOf, hsize, hlen, blockLengthLegal]
  rw [exec_eq_afterChecks, afterChecks_of_all_pass hpass]
  exact congrArg _ (runOrchestrator_start s _ _ ((keySizeLegal_iff kb).mp hsize))

end Sys2Proof.Machine

open Sys2Proof Sys2Proof.Machine

/-- Settles O58: command and operation make the same checks in the same order, and once these pass, the ports carry every
byte that encryptFn reads. -/
theorem encryptCommandImplementsTheOperation : Obligations.EncryptCommandImplementsTheOperation := by
  unfold Obligations.EncryptCommandImplementsTheOperation
  intro s block key kb blen klen hblen hklen hblock hkey
  cases hsize : keySizeLegal kb.toNat with
  | false =>
    refine ⟨errorState .configError s, by simp [exec_eq_afterChecks, checksOf, hsize], ?_⟩
    simp [encryptOperation, hsize, errorState]
  | true =>
    by_cases h8 : blen = 8
    · subst h8
      cases hlen : keyLengthLegal kb.toNat klen.toNat with
      | false =>
        refine ⟨errorState .keyLengthError s,
          by simp [exec_eq_afterChecks, checksOf, hsize, hlen, blockLengthLegal], ?_⟩
        simp [encryptOperation, hsize, hblen, hklen, hlen, errorState]
      | true =>
        have hbytes : block = (blockBytes s.DIN_BLOCK).toList := by
          simpa [hblen, List.take_of_length_le] using hblock
        have hnibbles := deriveKeyNibbles_of_onPort (kb := kb.toNat) (key := key) (by simpa [keySizeLegal] using hsize)
          (by simpa [keyLengthLegal, hklen] using hlen) hkey
        refine ⟨_, exec_encrypt_of_legal s hsize hlen, ?_⟩
        rw [hbytes, encryptOperation_of_legal _ _ _ _ hsize (hklen ▸ hlen)]
        simp [encryptFn, hnibbles]
    · have hne : blockLengthLegal blen.toNat = false := by simpa [blockLengthLegal, BitVec.toNat_eq] using h8
      have hlen8 : block.length ≠ 8 := by simpa [blockLengthLegal, hblen] using hne
      refine ⟨errorState .blockLengthError s, by simp [exec_eq_afterChecks, checksOf, hsize, hne], ?_⟩
      simp [encryptOperation, hsize, hlen8, errorState]
end

section
/-! The registers over commands, steps and runs: what each can do to them, and the invariant of the reachable states. -/

namespace Sys2Proof.Machine

variable {i : Instr} {w : Word} {s t : State}

/-! ## What a command answers -/

/-- ENCRYPT with its checks passed writes DOUT, OV and ERR, leaves the hidden registers clear and changes nothing else
(R219, R224). -/
theorem effectOf_encrypt {kb : BitVec 8} {blen : BitVec 4} {klen : BitVec 5}
    (hpass : ∀ c ∈ checksOf s (.encrypt kb blen klen), c.1 = true) :
    ∃ D : Block, effectOf s (.encrypt kb blen klen) =
      { s with DOUT := D, OV := true, ERR := .noError, enc := Orchestrator.idle } := by
  have hsize : keySizeLegal kb.toNat = true := hpass (_, .configError) (.head _)
  exact ⟨_, runOrchestrator_start s _ _ ((keySizeLegal_iff kb).mp hsize)⟩

/-- A command that answers t has passed its checks and had its effect, or has ended in an error. -/
theorem exec_next (h : exec i s = .next t) :
    ((∀ c ∈ checksOf s i, c.1 = true) ∧ t = effectOf s i) ∨ ∃ e, e ≠ .noError ∧ t = errorState e s := by
  obtain ⟨hpass, heq⟩ | ⟨e, he, -, heq⟩ := exec_cases i s <;> rw [heq] at h <;> cases h
  · exact .inl ⟨hpass, rfl⟩
  · exact .inr ⟨e, he, rfl⟩

/-- An issued word that answers t has had the effect of a command whose checks pass, or has ended in an error. -/
theorem issue_next (h : issue w s = .next t) :
    (∃ i, (∀ c ∈ checksOf s i, c.1 = true) ∧ t = effectOf s i) ∨ ∃ e, e ≠ .noError ∧ t = errorState e s := by
  obtain ⟨i, -, heq⟩ | ⟨-, -, heq⟩ := issue_cases w s <;> rw [heq] at h
  · exact (exec_next h).imp_left fun hi => ⟨i, hi⟩
  · cases h
    exact .inr ⟨.illegalCommand, by decide, rfl⟩

/-! ## The frame of all commands -/

/-- From s to t only registers that the command i writes have changed, OV, ERR and ERRS aside (R30-R37, R53, R224). -/
structure WritesOwnRegistersOnly (i : Instr) (s t : State) : Prop where
  S : i.opcode ∉ [0x2, 0x4, 0x5, 0x6, 0x7, 0x8] → t.S = s.S
  SV : i.opcode ≠ 0x2 → t.SV = s.SV
  key : i.opcode ≠ 0x3 → t.K = s.K ∧ t.KBR = s.KBR ∧ t.KV = s.KV
  DOUT : i.opcode ∉ [0x9, 0xA] → t.DOUT = s.DOUT
  GFR : i.opcode ≠ 0x1 → t.GFR = s.GFR
  enc : i.opcode ≠ 0xA → t.enc = s.enc
  cfg : t.cfg = s.cfg
  DIN_BLOCK : t.DIN_BLOCK = s.DIN_BLOCK
  DIN_KEY : t.DIN_KEY = s.DIN_KEY
  events : t.events = s.events

/-- An error changes none of these registers (R250). -/
theorem errorState_frame (i : Instr) (e : ErrorCode) (s : State) : WritesOwnRegistersOnly i s (errorState e s) := by
  constructor <;> simp

/-! ## What a command that completes does to each register -/

section Completion

variable (hpass : ∀ c ∈ checksOf s i, c.1 = true)
include hpass

theorem effectOf_frame : WritesOwnRegistersOnly i s (effectOf s i) := by
  cases i with
  | encrypt =>
    obtain ⟨D, heq⟩ := effectOf_encrypt hpass
    constructor <;> simp [heq, Instr.opcode]
  | _ => constructor <;> simp [effectOf, Instr.opcode]

theorem effectOf_ERR : (effectOf s i).ERR = .noError := by
  cases i with
  | encrypt => obtain ⟨D, heq⟩ := effectOf_encrypt hpass; rw [heq]
  | _ => rfl

theorem effectOf_ERRS : (effectOf s i).ERRS = s.ERRS := by
  cases i with
  | encrypt => obtain ⟨D, heq⟩ := effectOf_encrypt hpass; rw [heq]
  | _ => simp only [effectOf]

theorem effectOf_OV : (effectOf s i).OV = if i.opcode = 0x9 ∨ i.opcode = 0xA then true else s.OV := by
  cases i with
  | encrypt => obtain ⟨D, heq⟩ := effectOf_encrypt hpass; simp [heq, Instr.opcode]
  | _ => simp [effectOf, Instr.opcode]

/-- Completing never clears SV: LOADPT sets it, and the others keep it (R31). -/
theorem effectOf_SV (h : s.SV = true) : (effectOf s i).SV = true := by
  cases i with
  | loadpt => rfl
  | _ => rw [(effectOf_frame hpass).SV (by simp [Instr.opcode]), h]

/-- Completing never clears KV: LOADKEY sets it, and the others keep it (R34). -/
theorem effectOf_KV (h : s.KV = true) : (effectOf s i).KV = true := by
  cases i with
  | loadkey => rfl
  | _ => rw [((effectOf_frame hpass).key (by simp [Instr.opcode])).2.2, h]

/-- A command that leaves SV = 0 has not written S: LOADPT sets SV, and the others that write S need SV = 1. -/
theorem effectOf_S_of_unloaded (h : (effectOf s i).SV = false) : s.SV = false ∧ (effectOf s i).S = s.S := by
  have hSV : s.SV = false := by
    by_contra hne
    simp [effectOf_SV hpass (by simpa using hne)] at h
  cases i with
  | loadpt => cases h
  | gfmul | loadkey | readout | encrypt => exact ⟨hSV, (effectOf_frame hpass).S (by simp [Instr.opcode])⟩
  | _ => simp [checksOf, hSV] at hpass

/-- Completing keeps the hidden registers clear (R66). -/
theorem effectOf_hidden (h : s.enc = Orchestrator.idle) : (effectOf s i).enc = Orchestrator.idle := by
  cases i with
  | encrypt => obtain ⟨D, heq⟩ := effectOf_encrypt hpass; rw [heq]
  | _ => rw [(effectOf_frame hpass).enc (by simp [Instr.opcode]), h]

end Completion

/-! ## What a step answers -/

/-- Everything a step from s can answer, by the host's next event (R261, R280). -/
inductive StepAnswers (s : State) : State → Prop
  | idle (hev : s.events = []) : StepAnswers s s
  | driveBlock (v : Block) (rest : List HostEvent) (hev : s.events = .driveBlock v :: rest) :
    StepAnswers s { s with events := rest, DIN_BLOCK := v }
  | driveKey (v : KeyWord) (rest : List HostEvent) (hev : s.events = .driveKey v :: rest) :
    StepAnswers s { s with events := rest, DIN_KEY := v }
  | reset (rest : List HostEvent) (hev : s.events = .reset :: rest) :
    StepAnswers s (resetRegisters { s with events := rest })
  | completes (w : Word) (rest : List HostEvent) (hev : s.events = .issue w :: rest) (i : Instr)
    (hpass : ∀ c ∈ checksOf { s with events := rest } i, c.1 = true) :
    StepAnswers s (effectOf { s with events := rest } i)
  | fails (w : Word) (rest : List HostEvent) (hev : s.events = .issue w :: rest) (e : ErrorCode)
    (he : e ≠ .noError) : StepAnswers s (errorState e { s with events := rest })

theorem step_answers (h : step s = .next t) : StepAnswers s t := by
  obtain ⟨hev, heq⟩ | ⟨e, rest, hev, heq⟩ := step_cases s <;> rw [heq] at h
  · cases h
    exact .idle hev
  · cases e with
    | driveBlock v => cases h; exact .driveBlock v rest hev
    | driveKey v => cases h; exact .driveKey v rest hev
    | reset => cases h; exact .reset rest hev
    | issue w =>
      obtain ⟨i, hpass, rfl⟩ | ⟨e, he, rfl⟩ := issue_next h
      · exact .completes w rest hev i hpass
      · exact .fails w rest hev e he

theorem step_cfg (h : step s = .next t) : t.cfg = s.cfg := by
  cases step_answers h with
  | completes _ _ _ _ hpass => exact (effectOf_frame hpass).cfg
  | _ => rfl

theorem step_events (h : step s = .next t) : t.events = s.events.tail := by
  cases step_answers h with
  | completes _ _ hev _ hpass => simp [(effectOf_frame hpass).events, hev]
  | _ => simp [*]

/-- Without a reset, a step leaves ERRS = 0 exactly when it was 0 and no word was issued that failed (R39). -/
theorem step_ERRS_iff (h : step s = .next t) (hreset : s.events.head? ≠ some .reset) :
    t.ERRS = false ↔ s.ERRS = false ∧ ∀ w rest, s.events = .issue w :: rest → t.ERR = .noError := by
  cases step_answers h with
  | idle hev => simp [hev]
  | driveBlock _ _ hev => simp [hev]
  | driveKey _ _ hev => simp [hev]
  | reset _ hev => simp [hev] at hreset
  | completes _ _ _ _ hpass => simp [effectOf_ERR hpass, effectOf_ERRS hpass]
  | fails _ _ hev _ he => simp [hev, he]

/-- A step that is no reset clears neither SV nor KV (R31, R34). -/
theorem step_keeps_validFlags (h : step s = .next t) (hreset : s.events.head? ≠ some .reset) :
    (s.SV = true → t.SV = true) ∧ (s.KV = true → t.KV = true) := by
  cases step_answers h with
  | reset _ hev => simp [hev] at hreset
  | completes _ _ _ _ hpass => exact ⟨effectOf_SV hpass, effectOf_KV hpass⟩
  | _ => exact ⟨id, id⟩

/-! ## Runs -/

theorem runsTo_zero : runsTo 0 s t ↔ t = s := by
  constructor
  · rintro ⟨⟩
    rfl
  · rintro rfl
    rfl

/-- A run that makes a first step goes on from that step's answer. -/
theorem runsTo_succ_of_step {n : Nat} {s' : State} (h : step s = .next s') : runsTo (n + 1) s t ↔ runsTo n s' t := by
  have hstep : Sys2Proof.core.step s = .next s' := h
  simp only [runsTo, Host.Core.run, hstep]

theorem exists_step_of_runsTo_succ {n : Nat} (h : runsTo (n + 1) s t) : ∃ s', step s = .next s' ∧ runsTo n s' t := by
  cases hstep : step s with
  | next s' => exact ⟨s', rfl, (runsTo_succ_of_step hstep).mp h⟩
  | fault r => cases r
  | refused r =>
    have : Sys2Proof.core.step s = .refused r := hstep
    simp [runsTo, Host.Core.run, this] at h

/-- Every word issued within the next n steps from s leaves ERR = NONE. -/
def IssuedWordsComplete (n : Nat) (s : State) : Prop :=
  ∀ (k : Nat) (u v : State) (w : Word) (rest : List HostEvent),
    k < n → runsTo k s u → u.events = .issue w :: rest → step u = .next v → v.ERR = .noError

theorem issuedWordsComplete_succ_iff {n : Nat} {s' : State} (h : step s = .next s') :
    IssuedWordsComplete (n + 1) s ↔
      (∀ w rest, s.events = .issue w :: rest → s'.ERR = .noError) ∧ IssuedWordsComplete n s' := by
  constructor
  · exact fun hall => ⟨fun w rest hev => hall 0 s s' w rest (by omega) rfl hev h,
      fun k u v w rest hk hrun => hall (k + 1) u v w rest (by omega) ((runsTo_succ_of_step h).mpr hrun)⟩
  · rintro ⟨hfirst, hlater⟩ k u v w rest hk hrun hev hv
    cases k with
    | zero =>
      obtain rfl := runsTo_zero.mp hrun
      obtain rfl : s' = v := by simpa [h] using hv
      exact hfirst w rest hev
    | succ k => exact hlater k u v w rest (by omega) ((runsTo_succ_of_step h).mp hrun) hev hv

/-- Over a run without a reset ERRS stays 0 exactly when every word issued within it completes (R39). -/
theorem run_ERRS_iff (n : Nat) (hreset : HostEvent.reset ∉ s.events.take n) (hrun : runsTo n s t) :
    t.ERRS = false ↔ s.ERRS = false ∧ IssuedWordsComplete n s := by
  induction n generalizing s with
  | zero =>
    obtain rfl := runsTo_zero.mp hrun
    simp [IssuedWordsComplete]
  | succ n ih =>
    obtain ⟨s', hstep, hrest⟩ := exists_step_of_runsTo_succ hrun
    have htake : s.events.take (n + 1) = s.events.head?.toList ++ s.events.tail.take n := by
      cases s.events <;> simp
    rw [htake, List.mem_append, Option.mem_toList, not_or, ← step_events hstep] at hreset
    obtain ⟨hhead, htail⟩ := hreset
    rw [ih htail hrest, step_ERRS_iff hstep hhead, issuedWordsComplete_succ_iff hstep, and_assoc]

theorem run_cfg (n : Nat) (hrun : runsTo n s t) : t.cfg = s.cfg := by
  induction n generalizing s with
  | zero => rw [runsTo_zero.mp hrun]
  | succ n ih =>
    obtain ⟨s', hstep, hrest⟩ := exists_step_of_runsTo_succ hrun
    rw [ih hrest, step_cfg hstep]

/-! ## The key registers -/

/-- What the invariant says of the key registers: clear while no key is loaded, else a legal key size with the unused
cells clear (R32-R34). -/
structure KeyRegistersAgree (K : Vector Nibble 32) (KBR : BitVec 8) (KV : Bool) : Prop where
  unloaded : KV = false → KBR = 0 ∧ K = Vector.replicate 32 0
  size : KV = true → KBR = 64 ∨ KBR = 128
  unused : KBR = 64 → ∀ i : Fin 32, 16 ≤ i.val → K[i] = 0

theorem State.Inv.keyRegisters (h : s.Inv) : KeyRegistersAgree s.K s.KBR s.KV :=
  ⟨h.keyUnloaded, h.keySize, h.unusedKey⟩

/-- A register filled from a key array that does not reach cell i is 0 there (R152). -/
theorem keyRegister_get_of_length_le {N : List Nibble} {i : Fin 32} (h : N.length ≤ i.val) : (keyRegister N)[i] = 0 := by
  simp [h]

theorem loadkey_keyRegisters (bytes : List Byte) {kb : BitVec 8} (hkb : kb = 64 ∨ kb = 128) :
    KeyRegistersAgree (keyRegister (deriveKeyNibbles bytes kb.toNat)) kb true where
  unloaded h := nomatch h
  size _ := hkb
  unused h64 i hi := keyRegister_get_of_length_le (by simpa [h64] using hi)

theorem effectOf_keyRegisters (hpass : ∀ c ∈ checksOf s i, c.1 = true) (h : KeyRegistersAgree s.K s.KBR s.KV) :
    KeyRegistersAgree (effectOf s i).K (effectOf s i).KBR (effectOf s i).KV := by
  cases i with
  | loadkey kb klen => exact loadkey_keyRegisters _ ((keySizeLegal_iff kb).mp (hpass (_, .configError) (.head _)))
  | _ =>
    obtain ⟨hK, hKBR, hKV⟩ := (effectOf_frame hpass).key (by simp [Instr.opcode])
    rwa [hK, hKBR, hKV]

/-! ## The invariant of the reachable states -/

/-- The invariant does not speak of the host's side. -/
theorem State.Inv.with_hostSide (h : s.Inv) (B : Block) (V : KeyWord) (rest : List HostEvent) :
    State.Inv { s with DIN_BLOCK := B, DIN_KEY := V, events := rest } :=
  ⟨h.sbox, h.stateUnloaded, h.keyUnloaded, h.keySize, h.unusedKey, h.outputValid, h.sticky, h.hidden⟩

theorem resetRegisters_inv (h : s.cfg.sboxIsPermutation = true) : State.Inv (resetRegisters s) where
  sbox := h
  stateUnloaded _ := rfl
  keyUnloaded _ := ⟨rfl, rfl⟩
  keySize h := nomatch h
  unusedKey h := absurd h (by simp)
  outputValid h := nomatch h
  sticky h := absurd rfl h
  hidden := rfl

theorem State.Inv.after_error (h : s.Inv) (e : ErrorCode) : State.Inv (errorState e s) where
  sbox := h.sbox
  stateUnloaded := h.stateUnloaded
  keyUnloaded := h.keyUnloaded
  keySize := h.keySize
  unusedKey := h.unusedKey
  outputValid h := nomatch h
  sticky _ := rfl
  hidden := h.hidden

theorem State.Inv.after_completion (h : s.Inv) (hpass : ∀ c ∈ checksOf s i, c.1 = true) : State.Inv (effectOf s i) where
  sbox := (effectOf_frame hpass).cfg ▸ h.sbox
  stateUnloaded hSV :=
    let ⟨hunloaded, hS⟩ := effectOf_S_of_unloaded hpass hSV
    hS.trans (h.stateUnloaded hunloaded)
  keyUnloaded := (effectOf_keyRegisters hpass h.keyRegisters).unloaded
  keySize := (effectOf_keyRegisters hpass h.keyRegisters).size
  unusedKey := (effectOf_keyRegisters hpass h.keyRegisters).unused
  outputValid _ := effectOf_ERR hpass
  sticky he := absurd (effectOf_ERR hpass) he
  hidden := effectOf_hidden hpass h.hidden

theorem State.Inv.after_step (h : s.Inv) (hstep : step s = .next t) : t.Inv := by
  cases step_answers hstep with
  | idle => exact h
  | driveBlock v rest => exact h.with_hostSide v s.DIN_KEY rest
  | driveKey v rest => exact h.with_hostSide s.DIN_BLOCK v rest
  | reset => exact resetRegisters_inv h.sbox
  | completes _ rest _ _ hpass => exact (h.with_hostSide s.DIN_BLOCK s.DIN_KEY rest).after_completion hpass
  | fails _ rest _ e => exact (h.with_hostSide s.DIN_BLOCK s.DIN_KEY rest).after_error e

/-! ## The STATUS view -/

theorem STATUS_errField (s : State) : (STATUS s).extractLsb' 0 3 = s.ERR.code := by
  apply BitVec.eq_of_getLsbD_eq
  intro k hk
  interval_cases k <;> simp [STATUS]

theorem STATUS_keySizeField (s : State) : (STATUS s).extractLsb' 8 8 = s.KBR := by
  apply BitVec.eq_of_getLsbD_eq
  intro k hk
  interval_cases k <;> simp [STATUS]

end Sys2Proof.Machine

open Sys2Proof Sys2Proof.Machine

/-- Settles O44: an error keeps the invariant, and so does each command that completes, register by register. -/
theorem invariantIsKeptByEveryStep : Obligations.InvariantIsKeptByEveryStep := by
  unfold Obligations.InvariantIsKeptByEveryStep
  exact fun _ _ h hstep => h.after_step hstep

/-- Settles O24: step by step, with the first step of a run taken off the front. -/
theorem errsIsSticky : Obligations.ErrsIsSticky := by
  unfold Obligations.ErrsIsSticky
  refine ⟨rfl, fun w s t h herr => ?_, fun s t h hs ht => ?_, fun n s t hs hreset hrun => ?_⟩
  · obtain ⟨i, hpass, rfl⟩ | ⟨e, -, rfl⟩ := issue_next h
    · exact absurd (effectOf_ERR hpass) herr
    · rfl
  · by_contra hreset
    obtain ⟨hclear, -⟩ := (step_ERRS_iff h hreset).mp ht
    simp [hs] at hclear
  · exact (run_ERRS_iff n hreset hrun).trans (and_iff_right hs)

/-- Settles O35: the frame of a command's effect, and of the error outcome. -/
theorem registersAreWrittenByTheirCommandsOnly : Obligations.RegistersAreWrittenByTheirCommandsOnly := by
  unfold Obligations.RegistersAreWrittenByTheirCommandsOnly
  intro i s t h
  have hframe : WritesOwnRegistersOnly i s t := by
    obtain ⟨hpass, rfl⟩ | ⟨e, -, rfl⟩ := exec_next h
    · exact effectOf_frame hpass
    · exact errorState_frame i e s
  exact ⟨hframe.S, hframe.SV, hframe.key, hframe.DOUT, hframe.GFR, hframe.enc, hframe.cfg, hframe.DIN_BLOCK,
    hframe.DIN_KEY, hframe.events⟩

/-- Settles O36: a step that is no reset keeps SV = 1 and KV = 1. -/
theorem validFlagsAreClearedByResetOnly : Obligations.ValidFlagsAreClearedByResetOnly := by
  unfold Obligations.ValidFlagsAreClearedByResetOnly
  intro s t h hcleared
  by_contra hreset
  obtain ⟨hSV, hKV⟩ := step_keeps_validFlags h hreset
  obtain ⟨hset, hclear⟩ | ⟨hset, hclear⟩ := hcleared
  · simp [hSV hset] at hclear
  · simp [hKV hset] at hclear

/-- Settles O37: an error clears OV, and a command that completes writes it as `effectOf_OV` says. -/
theorem outputValidRule : Obligations.OutputValidRule := by
  unfold Obligations.OutputValidRule
  refine ⟨rfl, fun w s t h herr => ?_, fun i s t h => ?_⟩
  · obtain ⟨i, hpass, rfl⟩ | ⟨e, -, rfl⟩ := issue_next h
    · exact absurd (effectOf_ERR hpass) herr
    · rfl
  · obtain ⟨hpass, rfl⟩ | ⟨e, he, rfl⟩ := exec_next h
    · simp only [effectOf_ERR hpass, effectOf_OV hpass, ne_eq, not_true_eq_false, ↓reduceIte]
    · simp [he]

/-- Settles O38, by induction on the number of steps. -/
theorem tablesNeverChange : Obligations.TablesNeverChange := by
  unfold Obligations.TablesNeverChange
  exact fun n _ _ hrun => run_cfg n hrun

/-- Settles O13: the two wide fields are read bit by bit, and each flag is one bit. -/
theorem statusLayout : Obligations.StatusLayout := by
  unfold Obligations.StatusLayout
  refine ⟨fun s => ⟨STATUS_errField s, ?_, ?_, ?_, ?_, ?_, STATUS_keySizeField s⟩, by decide⟩
  all_goals simp [STATUS]

/-- Settles O43: the reset state is what the reset event makes of it, and the default S-box is a permutation. -/
theorem invariantAtReset : Obligations.InvariantAtReset := by
  unfold Obligations.InvariantAtReset
  exact resetRegisters_inv (s := State.reset) (by decide)
end

section
/-! The host's ports: a change of the state that a command's checks and effect do not see passes through the command. -/

namespace Sys2Proof.Machine

variable {f : State → State} {i : Instr} {s t : State}

/-- A change f of the state that the error outcome does not see passes through the checks. -/
theorem afterChecks_commutes (herr : ∀ e, errorState e (f s) = f (errorState e s)) {u : State}
    (cs : List (Bool × ErrorCode)) (h : afterChecks cs s (.next u) = .next t) :
    afterChecks cs (f s) (.next (f u)) = .next (f t) := by
  induction cs with
  | nil => cases h; rfl
  | cons c rest ih =>
    obtain ⟨passes, e⟩ := c
    cases passes with
    | true => exact ih h
    | false => cases h; exact congrArg _ (herr e)

/-- A change f of the state that neither the checks, the error outcome nor the effect of a command sees passes through the
command. -/
theorem exec_commutes (hchecks : checksOf (f s) i = checksOf s i) (herr : ∀ e, errorState e (f s) = f (errorState e s))
    (heffect : effectOf (f s) i = f (effectOf s i)) (h : exec i s = .next t) : exec i (f s) = .next (f t) := by
  rw [exec_eq_afterChecks] at h ⊢
  rw [hchecks, heffect]
  exact afterChecks_commutes herr _ h

/-- s with another level on DIN_BLOCK. -/
def State.withBlock (v : Block) (s : State) : State := { s with DIN_BLOCK := v }

/-- s with another level on DIN_KEY. -/
def State.withKey (v : KeyWord) (s : State) : State := { s with DIN_KEY := v }

/-- No check reads DIN_BLOCK: the block's length is checked in the command word (R243). -/
theorem checksOf_withBlock (v : Block) (i : Instr) (s : State) : checksOf (s.withBlock v) i = checksOf s i := by
  cases i <;> rfl

/-- No check reads DIN_KEY: the key's length is checked in the command word (R244). -/
theorem checksOf_withKey (v : KeyWord) (i : Instr) (s : State) : checksOf (s.withKey v) i = checksOf s i := by
  cases i <;> rfl

/-- Only the effects of LOADPT and ENCRYPT read DIN_BLOCK (R76). -/
theorem effectOf_withBlock (v : Block) (h : i.opcode ∉ [0x2, 0xA]) :
    effectOf (s.withBlock v) i = (effectOf s i).withBlock v := by
  cases i with
  | loadpt | encrypt => simp [Instr.opcode] at h
  | _ => rfl

/-- Only the effects of LOADKEY and ENCRYPT read DIN_KEY (R76). -/
theorem effectOf_withKey (v : KeyWord) (h : i.opcode ∉ [0x3, 0xA]) :
    effectOf (s.withKey v) i = (effectOf s i).withKey v := by
  cases i with
  | loadkey | encrypt => simp [Instr.opcode] at h
  | _ => rfl

end Sys2Proof.Machine

open Sys2Proof Sys2Proof.Machine

/-- Settles O39: no check reads a port, and of the effects only those of the commands left out read it. -/
theorem unusedPortsAreIgnored : Obligations.UnusedPortsAreIgnored := by
  unfold Obligations.UnusedPortsAreIgnored
  intro i s t h
  constructor
  · intro hop v
    exact exec_commutes (f := State.withBlock v) (checksOf_withBlock v i s) (fun _ => rfl) (effectOf_withBlock v hop) h
  · intro hop v
    exact exec_commutes (f := State.withKey v) (checksOf_withKey v i s) (fun _ => rfl) (effectOf_withKey v hop) h
end

section
/-! The opcode table, the decoder and the encoder: what a row fixes of its words, when a word decodes, and that encoding and
decoding undo each other. -/

namespace Sys2Proof

variable {w : Word} {row : OpRow} {i : Instr} {stepPort : Bool}

/-! ## Fields of a word -/

/-- A field left in its place is the word under the field's mask. -/
theorem field_shiftLeft (w : Word) (lo n : Nat) :
    (w.extractLsb' lo n).setWidth 32 <<< lo = w &&& (BitVec.allOnes n).setWidth 32 <<< lo := by
  apply BitVec.eq_of_getLsbD_eq
  intro k hk
  by_cases hlo : k < lo
  · simp [hk, hlo]
  · by_cases hn : k - lo < n <;> simp [hk, hlo, hn, show lo + (k - lo) = k by omega]

/-- Reading a field where an operand was placed gives the operand. -/
theorem extract_placed {n lo : Nat} (x : BitVec n) (h : lo + n ≤ 32) :
    (x.setWidth 32 <<< lo).extractLsb' lo n = x := by
  apply BitVec.eq_of_getLsbD_eq
  intro k hk
  simp [hk, show lo + k < 32 by omega]

/-- Reading a field apart from where an operand was placed gives 0. -/
theorem extract_placed_elsewhere {n lo n' lo' : Nat} (x : BitVec n) (h : lo' + n' ≤ lo ∨ lo + n ≤ lo') :
    (x.setWidth 32 <<< lo).extractLsb' lo' n' = 0 := by
  apply BitVec.eq_of_getLsbD_eq
  intro k hk
  by_cases hlo : lo' + k < lo
  · simp [hlo]
  · simp [BitVec.getLsbD_of_ge x (lo' + k - lo) (by omega)]

/-! ## The opcode table (R95) -/

/-- The opcodes of the ten rows differ. -/
theorem opTable_ops_ne : opTable.Pairwise fun a b => a.op ≠ b.op := by
  decide

/-- A search by opcode, as the decoder makes it, finds the row. -/
theorem find_opTable (hrow : row ∈ opTable) : opTable.find? (fun r => r.op == row.op) = some row := by
  revert row
  simp [opTable]

/-- No two rows have the same opcode. -/
theorem opTable_row_unique {a b : OpRow} (ha : a ∈ opTable) (hb : b ∈ opTable) (h : a.op = b.op) : a = b := by
  have hfind := find_opTable ha
  rw [h, find_opTable hb] at hfind
  exact (Option.some.inj hfind).symm

/-- Every row's match and mask pair fixes the four bits of OP at the row's opcode. -/
theorem opTable_fixes_op (hrow : row ∈ opTable) : fieldOP row.mask = 0xF ∧ fieldOP row.matchWord = row.op := by
  revert row
  decide

/-- A word that matches a row has the row's opcode. -/
theorem fieldOP_of_matches (hrow : row ∈ opTable) (h : w &&& row.mask = row.matchWord) : fieldOP w = row.op := by
  obtain ⟨hmask, hmatch⟩ := opTable_fixes_op hrow
  have hand : fieldOP (w &&& row.mask) = fieldOP w &&& fieldOP row.mask := BitVec.extractLsb'_and
  have hones : fieldOP w &&& 0xF = fieldOP w := BitVec.and_allOnes
  rw [← hones, ← hmask, ← hand, h, hmatch]

/-- The bits that R94 marks 0 are those that a row's mask fixes, OP's own apart. -/
theorem formatZeroBits_eq : Machine.formatZeroBits = opTable.map fun row => (row.op, row.mask &&& ~~~0xF) :=
  rfl

/-- A word with a row's opcode matches the row exactly when every bit that the format marks 0 is 0 (R94, R95). -/
theorem matches_iff_zeroBits (hrow : row ∈ opTable) (hop : fieldOP w = row.op) :
    w &&& row.mask = row.matchWord ↔ w &&& (row.mask &&& ~~~0xF) = 0 := by
  have hall : ∀ row ∈ opTable, row.matchWord &&& ~~~0xF = 0 ∧
      row.mask = (row.mask &&& ~~~0xF) ||| 0xF ∧ row.matchWord = row.op.setWidth 32 := by decide
  obtain ⟨hzero, hmask, hmatch⟩ := hall row hrow
  constructor
  · intro h
    rw [← BitVec.and_assoc, h, hzero]
  · intro h
    have hlow : w &&& 0xF = (fieldOP w).setWidth 32 := by simpa [fieldOP] using (field_shiftLeft w 0 4).symm
    rw [hmask, BitVec.and_or_distrib_left, h, hlow, hop, hmatch]
    exact BitVec.zero_or

/-- A word whose opcode has a row has a 1 in a bit that its format marks 0 exactly when it does not match that row. -/
theorem zeroBitSet_iff (hrow : row ∈ opTable) (hop : fieldOP w = row.op) :
    (∃ z ∈ Machine.formatZeroBits, fieldOP w = z.1 ∧ w &&& z.2 ≠ 0) ↔ w &&& row.mask ≠ row.matchWord := by
  simp only [formatZeroBits_eq, List.mem_map, exists_exists_and_eq_and, ne_eq, matches_iff_zeroBits hrow hop]
  constructor
  · rintro ⟨r, hr, hrop, hne⟩
    exact opTable_row_unique hr hrow (hrop.symm.trans hop) ▸ hne
  · exact fun hne => ⟨row, hrow, hop, hne⟩

/-- No row has a reserved opcode, and every other opcode has a row (R97). -/
theorem reservedOpcode_iff (op : BitVec 4) : (op = 0x0 ∨ 0xB ≤ op.toNat) ↔ ∀ row ∈ opTable, op ≠ row.op := by
  revert op
  decide

/-! ## What the decoder answers (R96, R97) -/

/-- A word whose opcode has a row: the option and the fixed bits decide. -/
theorem decode_of_row (hrow : row ∈ opTable) (hop : fieldOP w = row.op) :
    decode stepPort w =
      if stepPort = false ∧ row.op ≠ 0xA then .error .noStepPort
      else if w &&& row.mask ≠ row.matchWord then .error .fixedBitSet
      else .ok (row.build w) := by
  rw [decode, hop, find_opTable hrow]

/-- A word whose opcode has no row is illegal. -/
theorem decode_of_no_row (h : ∀ row ∈ opTable, fieldOP w ≠ row.op) : decode stepPort w = .error .reservedOpcode := by
  have hnone : opTable.find? (fun r => r.op == fieldOP w) = none := by
    simpa [List.find?_eq_none] using fun r hr => (h r hr).symm
  rw [decode, hnone]

/-- The words that decode are those that match a row which STEP_PORT admits. -/
theorem decode_eq_ok_iff :
    decode stepPort w = .ok i ↔ ∃ row ∈ opTable, w &&& row.mask = row.matchWord ∧
      (stepPort = true ∨ row.op = 0xA) ∧ row.build w = i := by
  constructor
  · intro h
    by_cases hex : ∃ row ∈ opTable, fieldOP w = row.op
    · obtain ⟨row, hrow, hop⟩ := hex
      rw [decode_of_row hrow hop] at h
      split_ifs at h with hport hmatch
      exact ⟨row, hrow, not_not.mp hmatch, by simpa [or_iff_not_imp_left] using hport, Except.ok.inj h⟩
    · push Not at hex
      rw [decode_of_no_row hex] at h
      cases h
  · rintro ⟨row, hrow, hmatch, hport, rfl⟩
    rw [decode_of_row hrow (fieldOP_of_matches hrow hmatch), if_neg (by simpa [or_iff_not_imp_left] using hport),
      if_neg (not_not.mpr hmatch)]

/-- The decoder rejects the words that are illegal by the three conditions of R97. -/
theorem decode_error_iff_illegalWord : (∃ why, decode stepPort w = .error why) ↔ Machine.illegalWord stepPort w := by
  unfold Machine.illegalWord
  rw [reservedOpcode_iff]
  by_cases hex : ∃ row ∈ opTable, fieldOP w = row.op
  · obtain ⟨row, hrow, hop⟩ := hex
    have hreserved : ¬ ∀ row ∈ opTable, fieldOP w ≠ row.op := fun h => h row hrow hop
    have hdec : (∃ why, decode stepPort w = .error why) ↔
        (stepPort = false ∧ fieldOP w ≠ 0xA) ∨ w &&& row.mask ≠ row.matchWord := by
      rw [decode_of_row hrow hop, ← hop]
      split_ifs with hport hmatch
      · exact iff_of_true ⟨_, rfl⟩ (.inl hport)
      · exact iff_of_true ⟨_, rfl⟩ (.inr hmatch)
      · exact iff_of_false (by simp) (not_or.mpr ⟨hport, hmatch⟩)
    rw [hdec, or_iff_right hreserved, zeroBitSet_iff hrow hop]
  · push Not at hex
    exact iff_of_true ⟨_, decode_of_no_row hex⟩ (.inl hex)

/-! ## Encoding and decoding undo each other (R99) -/

/-- Only ENCRYPT exists without the step port (R15). -/
theorem wellFormed_iff : i.wellFormed stepPort = true ↔ stepPort = true ∨ i.opcode = 0xA := by
  cases i <;> simp [Instr.wellFormed, Instr.opcode]

/-- Every command's word matches the command's own row. -/
theorem encode_matches (i : Instr) :
    ∃ row ∈ opTable, row.op = i.opcode ∧ encode i &&& row.mask = row.matchWord := by
  have hfixed : Laws.FixedBits.Statement i := by
    cases i with
    | gfmul a b => exact Laws.FixedBits.gfmul a b
    | loadpt blen => exact Laws.FixedBits.loadpt blen
    | loadkey kb klen => exact Laws.FixedBits.loadkey kb klen
    | addkey step => exact Laws.FixedBits.addkey step
    | addconst r => exact Laws.FixedBits.addconst r
    | subcells => exact Laws.FixedBits.subcells
    | shiftrows => exact Laws.FixedBits.shiftrows
    | mixcol => exact Laws.FixedBits.mixcol
    | readout => exact Laws.FixedBits.readout
    | encrypt kb blen klen => exact Laws.FixedBits.encrypt kb blen klen
  obtain ⟨row, hrow, hop, -, hmatch⟩ := hfixed
  exact ⟨row, hrow, hop, hmatch⟩

/-- The row of a command's opcode reads every operand back from the command's word. -/
theorem build_encode (hrow : row ∈ opTable) (hop : row.op = i.opcode) : row.build (encode i) = i := by
  revert row
  cases i <;>
    simp [opTable, Instr.opcode, encode, fieldA, fieldB, fieldKB, fieldBLEN, fieldKLEN, fieldIDX,
      BitVec.extractLsb'_or, extract_placed, extract_placed_elsewhere]

/-- A row builds commands of its own opcode. -/
theorem opcode_build (hrow : row ∈ opTable) (w : Word) : (row.build w).opcode = row.op := by
  revert row
  simp [opTable, Instr.opcode]

/-- The word of the command that a row builds from w: the row's fixed bits, and w's own bits in the fields. -/
theorem encode_build (hrow : row ∈ opTable) (w : Word) :
    encode (row.build w) = row.matchWord ||| (w &&& ~~~row.mask) := by
  revert row
  simp [opTable, encode, fieldA, fieldB, fieldKB, fieldBLEN, fieldKLEN, fieldIDX, field_shiftLeft, BitVec.or_assoc,
    ← BitVec.and_or_distrib_left]

/-- A word that matches a row is the word of the command that the row builds from it. -/
theorem encode_build_of_matches (hrow : row ∈ opTable) (h : w &&& row.mask = row.matchWord) :
    encode (row.build w) = w := by
  rw [encode_build hrow, ← h, ← BitVec.and_or_distrib_left, BitVec.or_not_self, BitVec.and_allOnes]

end Sys2Proof

namespace Sys2Proof.Machine

variable {s t : State} {i : Instr}

/-- No command that runs reports ILLEGAL_COMMAND (R240, R241). -/
theorem exec_ERR_ne_illegalCommand (h : exec i s = .next t) : t.ERR ≠ .illegalCommand := by
  obtain ⟨hpass, heq⟩ | ⟨e, -, hmem, heq⟩ := exec_cases i s <;> rw [heq] at h <;> cases h
  · simp [effectOf_ERR hpass]
  · exact (checksOf_error i s _ hmem).2

/-- The host's next event is what the step does. -/
theorem step_of_events_cons {e : HostEvent} {rest : List HostEvent} (h : s.events = e :: rest) :
    step s = applyEvent e { s with events := rest } := by
  simp [step, nextEvent, h]

end Sys2Proof.Machine

open Sys2Proof Sys2Proof.Machine

/-- Settles O1: a command's word matches the row of its opcode, and that row reads the operands back. -/
theorem decodeOfEncode : Obligations.DecodeOfEncode := by
  unfold Obligations.DecodeOfEncode
  intro stepPort i hwf
  obtain ⟨row, hrow, hop, hmatch⟩ := encode_matches i
  exact decode_eq_ok_iff.mpr ⟨row, hrow, hmatch, hop ▸ wellFormed_iff.mp hwf, build_encode hrow hop⟩

/-- Settles O2: a legal word matches its row, whose fields and fixed bits are together all 32 bits. -/
theorem encodeOfDecode : Obligations.EncodeOfDecode := by
  unfold Obligations.EncodeOfDecode
  intro stepPort w i h
  obtain ⟨row, hrow, hmatch, hport, rfl⟩ := decode_eq_ok_iff.mp h
  exact ⟨encode_build_of_matches hrow hmatch, wellFormed_iff.mpr (opcode_build hrow w ▸ hport)⟩

/-- Settles O3: the decoder rejects the illegal words, and only a word it rejects ends in ILLEGAL_COMMAND. -/
theorem illegalWordsAreThoseOfTheThreeKinds : Obligations.IllegalWordsAreThoseOfTheThreeKinds := by
  unfold Obligations.IllegalWordsAreThoseOfTheThreeKinds
  intro stepPort w
  refine ⟨decode_error_iff_illegalWord, ?_⟩
  rintro s t rfl h
  obtain ⟨i, hdec, heq⟩ | ⟨why, hdec, heq⟩ := issue_cases w s <;> rw [heq] at h
  · simp [hdec, exec_ERR_ne_illegalCommand h]
  · cases h
    simp [hdec]

/-- Settles O4: a word that matches a row has the row's opcode, and no two rows have the same. -/
theorem opcodeRowsDoNotOverlap : Obligations.OpcodeRowsDoNotOverlap := by
  unfold Obligations.OpcodeRowsDoNotOverlap
  refine opTable_ops_ne.imp_of_mem ?_
  rintro a b ha hb hne w ⟨hwa, hwb⟩
  exact hne ((fieldOP_of_matches ha hwa).symm.trans (fieldOP_of_matches hb hwb))

/-- Settles O5: each word is the word of its command, which decodes to the command (O1). -/
theorem decodeOfWrittenWords : Obligations.DecodeOfWrittenWords := by
  unfold Obligations.DecodeOfWrittenWords
  exact ⟨decodeOfEncode true (.gfmul 0x9 0xE) rfl, decodeOfEncode true (.loadpt 8) rfl,
    decodeOfEncode true (.loadkey 128 16) rfl, decodeOfEncode true (.addkey 13) rfl,
    decodeOfEncode true (.addconst 47) rfl, decodeOfEncode true .subcells rfl, decodeOfEncode true .shiftrows rfl,
    decodeOfEncode true .mixcol rfl, decodeOfEncode true .readout rfl, decodeOfEncode true (.encrypt 64 8 8) rfl⟩

/-- Settles O10: the next event drives its port, and that is the whole step. -/
theorem directivesOnlyDriveTheirPort : Obligations.DirectivesOnlyDriveTheirPort := by
  unfold Obligations.DirectivesOnlyDriveTheirPort
  exact ⟨fun _ _ _ h => step_of_events_cons h, fun _ _ _ h => step_of_events_cons h⟩

end

section
/-! The multiplier: a nibble read as an element of GF(2)[x] modulo x^4 + x + 1, where gfmul is the product and different
nibbles stay different, so that the laws of gfmul are those of that ring. -/

namespace Sys2Proof.Machine

open Polynomial

/-! ## A nibble as a polynomial -/

/-- The reduction polynomial (R121). -/
noncomputable def gf16Modulus : (ZMod 2)[X] := X ^ 4 + X + 1

theorem degree_gf16Modulus : gf16Modulus.degree = 4 := by
  unfold gf16Modulus
  compute_degree!

/-- A nibble read as a polynomial: bit k is the coefficient of x^k (R121). -/
noncomputable def nibblePoly (v : Nibble) : (ZMod 2)[X] := ∑ k : Fin 4, if v[k] then X ^ k.val else 0

theorem coeff_nibblePoly (v : Nibble) (k : Fin 4) : (nibblePoly v).coeff k = if v[k] then 1 else 0 := by
  have hterm (j : Fin 4) :
      ((if v[j] then X ^ j.val else 0 : (ZMod 2)[X])).coeff k = if k = j then (if v[j] then 1 else 0) else 0 := by
    by_cases hj : v[j] <;> simp [hj, coeff_X_pow, Fin.ext_iff]
  simp only [nibblePoly, finsetSum_coeff, hterm, Finset.sum_ite_eq, Finset.mem_univ, ↓reduceIte]

theorem degree_nibblePoly_lt (v : Nibble) : (nibblePoly v).degree < 4 := by
  refine (degree_sum_le _ _).trans_lt ((Finset.sup_lt_iff (by decide)).mpr fun k _ => ?_)
  by_cases hk : v[k]
  · simp only [hk, ↓reduceIte, degree_X_pow]
    exact_mod_cast k.isLt
  · rw [if_neg hk, degree_zero]
    exact WithBot.bot_lt_coe 4

/-- XOR of nibbles is the sum of their polynomials. -/
theorem nibblePoly_xor (a b : Nibble) : nibblePoly (a ^^^ b) = nibblePoly a + nibblePoly b := by
  rw [nibblePoly, nibblePoly, nibblePoly, ← Finset.sum_add_distrib]
  refine Finset.sum_congr rfl fun k _ => ?_
  cases ha : a[k] <;> cases hb : b[k] <;> simp_all [CharTwo.add_self_eq_zero]

/-- Only the zero nibble has the polynomial 0. -/
theorem eq_zero_of_nibblePoly_eq_zero {v : Nibble} (h : nibblePoly v = 0) : v = 0 := by
  apply BitVec.eq_of_getElem_eq
  intro k hk
  simpa [h] using coeff_nibblePoly v ⟨k, hk⟩

/-- Multiplied by x, a polynomial is its nibble shifted left and the x^4 that is shifted out. -/
theorem X_mul_nibblePoly (v : Nibble) : X * nibblePoly v = nibblePoly (v <<< 1) + if v[3] then X ^ 4 else 0 := by
  simp [nibblePoly, Fin.sum_univ_four, mul_add, pow_succ']

/-! ## A nibble modulo x^4 + x + 1 -/

/-- A nibble as an element of GF(2)[x] modulo x^4 + x + 1. -/
noncomputable def gf16 (v : Nibble) : AdjoinRoot gf16Modulus := AdjoinRoot.mk gf16Modulus (nibblePoly v)

@[simp] theorem gf16_zero : gf16 0#4 = 0 := by
  simp [gf16, nibblePoly]

@[simp] theorem gf16_one : gf16 1#4 = 1 := by
  simp [gf16, nibblePoly]

@[simp] theorem gf16_xor (a b : Nibble) : gf16 (a ^^^ b) = gf16 a + gf16 b := by
  simp [gf16, nibblePoly_xor]

/-- Two nibbles that agree modulo x^4 + x + 1 are equal: the polynomial of their XOR has a degree below 4. -/
theorem gf16_injective : Function.Injective gf16 := by
  intro a b hab
  have hdvd : gf16Modulus ∣ nibblePoly (a ^^^ b) := by
    rw [← AdjoinRoot.mk_eq_zero, nibblePoly_xor, ← CharTwo.sub_eq_add]
    exact AdjoinRoot.mk_eq_zero.mpr (AdjoinRoot.mk_eq_mk.mp hab)
  have hdeg : (nibblePoly (a ^^^ b)).degree < gf16Modulus.degree := by
    rw [degree_gf16Modulus]
    exact degree_nibblePoly_lt _
  have hzero : a ^^^ b = 0 := eq_zero_of_nibblePoly_eq_zero (eq_zero_of_dvd_of_degree_lt hdvd hdeg)
  exact BitVec.xor_eq_zero_iff.mp hzero

/-- x^4 is x + 1 (R121). -/
theorem root_pow_four : AdjoinRoot.root gf16Modulus ^ 4 = AdjoinRoot.root gf16Modulus + 1 := by
  have h : AdjoinRoot.mk gf16Modulus (X ^ 4) = AdjoinRoot.mk gf16Modulus (X + 1) := by
    rw [AdjoinRoot.mk_eq_mk, CharTwo.sub_eq_add, ← add_assoc]
    exact dvd_rfl
  simpa using h

/-- The doubling step multiplies by x (R122): a shift, and x + 1 for the x^4 that is shifted out. -/
@[simp] theorem gf16_xtime (v : Nibble) : gf16 (xtime v) = AdjoinRoot.root gf16Modulus * gf16 v := by
  have hmul : AdjoinRoot.root gf16Modulus * gf16 v =
      gf16 (v <<< 1) + if v[3] then AdjoinRoot.root gf16Modulus ^ 4 else 0 := by
    simpa [gf16, apply_ite (AdjoinRoot.mk gf16Modulus)] using
      congrArg (AdjoinRoot.mk gf16Modulus) (X_mul_nibblePoly v)
  have hreduce : gf16 3#4 = AdjoinRoot.root gf16Modulus + 1 := by
    simp [gf16, nibblePoly, Fin.sum_univ_four, add_comm]
  rw [hmul, root_pow_four, ← hreduce, xtime]
  cases v[3] <;> simp

/-- The multiplier's loop adds the product of x and the bits of b from bit i on (R120). -/
theorem gf16_gfmulLoop (n i : Nat) (acc x b : Nibble) :
    gf16 (gfmulLoop n i acc x b) =
      gf16 acc + gf16 x * ∑ k ∈ Finset.range n, if b.getLsbD (i + k) then AdjoinRoot.root gf16Modulus ^ k else 0 := by
  induction n generalizing i acc x with
  | zero => simp [gfmulLoop]
  | succ n ih =>
    have hstep : gf16 (if b.getLsbD i then acc ^^^ x else acc) = gf16 acc + gf16 x * if b.getLsbD i then 1 else 0 := by
      cases b.getLsbD i <;> simp
    have hshift (k : Nat) : i + 1 + k = i + (k + 1) := by omega
    have htail (k : Nat) : (if b.getLsbD (i + (k + 1)) then AdjoinRoot.root gf16Modulus ^ (k + 1) else 0) =
        AdjoinRoot.root gf16Modulus * if b.getLsbD (i + (k + 1)) then AdjoinRoot.root gf16Modulus ^ k else 0 := by
      rw [mul_ite, mul_zero, pow_succ']
    rw [gfmulLoop, ih, hstep, gf16_xtime, Finset.sum_range_succ']
    simp only [hshift, htail, ← Finset.mul_sum, Nat.add_zero, pow_zero]
    ring

/-- gfmul is the product modulo x^4 + x + 1 (R121). -/
@[simp] theorem gf16_gfmul (a b : Nibble) : gf16 (gfmul a b) = gf16 a * gf16 b := by
  have hb : gf16 b = ∑ k ∈ Finset.range 4, if b.getLsbD (0 + k) then AdjoinRoot.root gf16Modulus ^ k else 0 := by
    simp [gf16, nibblePoly, Finset.sum_range, apply_ite (AdjoinRoot.mk gf16Modulus)]
  rw [gfmul, gf16_gfmulLoop, ← hb]
  simp

/-! ## The laws of gfmul (R123) -/

theorem gfmul_comm (a b : Nibble) : gfmul a b = gfmul b a :=
  gf16_injective (by simp [mul_comm])

theorem gfmul_assoc (a b c : Nibble) : gfmul (gfmul a b) c = gfmul a (gfmul b c) :=
  gf16_injective (by simp [mul_assoc])

theorem gfmul_xor (a b c : Nibble) : gfmul a (b ^^^ c) = gfmul a b ^^^ gfmul a c :=
  gf16_injective (by simp [mul_add])

@[simp] theorem gfmul_zero (a : Nibble) : gfmul a 0#4 = 0#4 :=
  gf16_injective (by simp)

@[simp] theorem gfmul_one (a : Nibble) : gfmul a 1#4 = a :=
  gf16_injective (by simp)

@[simp] theorem one_gfmul (a : Nibble) : gfmul 1#4 a = a :=
  gf16_injective (by simp)

theorem exists_gfmul_eq_one : ∀ a : Nibble, a ≠ 0 → ∃ b, gfmul a b = 1 := by decide

/-- A nibble has at most one inverse: c = c (a b) = (a c) b = b. -/
theorem gfmul_inverse_unique {a b c : Nibble} (hb : gfmul a b = 1) (hc : gfmul a c = 1) : c = b :=
  calc c = gfmul c (gfmul a b) := by simp [hb]
    _ = gfmul (gfmul a c) b := by rw [← gfmul_assoc, gfmul_comm c a]
    _ = b := by simp [hc]

end Sys2Proof.Machine

open Sys2Proof Sys2Proof.Machine

/-- Settles O45: gfmul is the product modulo x^4 + x + 1, so the difference is 0 there. -/
theorem gfmulIsThePolynomialProduct : Obligations.GfmulIsThePolynomialProduct := by
  unfold Obligations.GfmulIsThePolynomialProduct
  intro poly a b
  have h : AdjoinRoot.mk gf16Modulus (nibblePoly a * nibblePoly b) =
      AdjoinRoot.mk gf16Modulus (nibblePoly (gfmul a b)) := by
    rw [map_mul]
    exact (gf16_gfmul a b).symm
  exact AdjoinRoot.mk_eq_mk.mp h

/-- Settles O25: GFMUL has no check and always has its effect. -/
theorem gfmulResult : Obligations.GfmulResult := by
  unfold Obligations.GfmulResult
  intro a b s
  rw [exec_eq_afterChecks, checksOf, afterChecks_nil, effectOf]

/-- Settles O46: the laws are those of the product modulo x^4 + x + 1, and every nonzero nibble has an inverse. -/
theorem gfmulLaws : Obligations.GfmulLaws := by
  unfold Obligations.GfmulLaws
  refine ⟨fun a => ⟨gfmul_zero a, gfmul_one a⟩, gfmul_comm, gfmul_assoc, gfmul_xor, fun a ha => ?_⟩
  obtain ⟨b, hb⟩ := exists_gfmul_eq_one a ha
  exact ⟨b, hb, fun c hc => gfmul_inverse_unique hb hc⟩

end

section
/-! The codec and the key schedule: pack and unpack undo each other and keep the order of the port's nibbles, and the key
nibbles of LED-64 all stand in the upper half of DIN_KEY. -/

namespace Sys2Proof.Machine

/-! ## pack and unpack (R140, R141, R144) -/

theorem cellAt_pack (B : Vector Byte 8) (n : Fin 16) : cellAt (pack B) n = nibbleOf B.toList n.val := by
  have hn : 4 * (n.val / 4) + n.val % 4 = n.val := Nat.div_add_mod n.val 4
  rw [cellAt, pack_get, hn]

theorem nibbleOf_even (B : Vector Byte 8) (i : Nat) (hi : i < 8) : nibbleOf B.toList (2 * i) = highNibble B[i] := by
  simp [nibbleOf, hi]

theorem nibbleOf_odd (B : Vector Byte 8) (i : Nat) (hi : i < 8) : nibbleOf B.toList (2 * i + 1) = lowNibble B[i] := by
  have hmod : (2 * i + 1) % 2 = 1 := by omega
  have hdiv : (2 * i + 1) / 2 = i := by omega
  simp [nibbleOf, hmod, hdiv, hi]

theorem unpack_pack (B : Vector Byte 8) : unpack (pack B) = B := by
  apply Vector.ext
  intro i hi
  rw [unpack_get _ i hi, cellAt_pack, cellAt_pack, nibbleOf_even B i hi, nibbleOf_odd B i hi, join_nibbles]

theorem pack_unpack (S : CellMatrix) : pack (unpack S) = S := by
  apply cells_ext
  rintro ⟨r, hr⟩ ⟨c, hc⟩
  calc (pack (unpack S))[r][c] = nibbleOf (unpack S).toList (4 * r + c) := pack_get _ r c hr hc
    _ = cellAt S ⟨4 * r + c, by omega⟩ := nibbleOf_unpack S ⟨4 * r + c, by omega⟩
    _ = S[r][c] := cellAt_get S r c hr hc

/-- Cell (r, c) of a packed port value is the port's nibble 4r + c, counted from the most significant one (R73). -/
theorem pack_blockBytes_get (V : Block) (r c : Fin 4) :
    (pack (blockBytes V))[r][c] = V.extractLsb' (60 - 4 * (4 * r.val + c.val)) 4 := by
  rw [← nibbleOf_blockBytes V (4 * r.val + c.val) (by omega)]
  exact pack_get _ r.val c.val r.isLt c.isLt

/-! ## The key nibbles of DIN_KEY (R150-R152) -/

theorem keyRegister_deriveKeyNibbles_get (v : KeyWord) (kb : Nat) (i : Fin 32) :
    (keyRegister (deriveKeyNibbles (keyBytes v) kb))[i] =
      if i.val < kb / 4 then v.extractLsb' (124 - 4 * i.val) 4 else 0 := by
  split
  case isTrue h =>
    rw [← nibbleOf_keyBytes v i.val i.isLt]
    simp [deriveKeyNibbles, h]
  case isFalse h => exact keyRegister_get_of_length_le (by simpa using h)

/-- The sixteen key nibbles of kb = 64 all stand in the upper half of DIN_KEY. -/
theorem deriveKeyNibbles_64_congr {u v : KeyWord} (h : u.extractLsb' 64 64 = v.extractLsb' 64 64) :
    deriveKeyNibbles (keyBytes u) 64 = deriveKeyNibbles (keyBytes v) 64 := by
  refine List.map_congr_left fun n hn => ?_
  have hn16 : n < 16 := List.mem_range.mp hn
  have hslice (x : KeyWord) : nibbleOf (keyBytes x) n = (x.extractLsb' 64 64).extractLsb' (60 - 4 * n) 4 := by
    rw [nibbleOf_keyBytes x n (by omega), extract_extract x _ _ _ _ (by omega)]
    congr 1
    omega
  rw [hslice, hslice, h]

/-! ## The commands -/

variable {s : State}

theorem exec_of_checks_pass {i : Instr} (h : ∀ c ∈ checksOf s i, c.1 = true) : exec i s = .next (effectOf s i) := by
  rw [exec_eq_afterChecks, afterChecks_of_all_pass h]

theorem effectOf_encrypt_of_legal (s : State) {kb : BitVec 8} {blen : BitVec 4} {klen : BitVec 5}
    (hkb : kb = 64 ∨ kb = 128) :
    effectOf s (.encrypt kb blen klen) = { s with
      DOUT := blockOfBytes (encryptFn s.cfg (blockBytes s.DIN_BLOCK) (keyBytes s.DIN_KEY) kb), OV := true,
      ERR := .noError, enc := Orchestrator.idle } :=
  runOrchestrator_start s _ _ hkb

/-- The key bytes reach ENCRYPT's result as key nibbles only, so keys with the same nibbles give the same result. -/
theorem encryptFn_congr {cfg : Config} {block : Vector Byte 8} {a b : List Byte} {kb : BitVec 8}
    (h : deriveKeyNibbles a kb.toNat = deriveKeyNibbles b kb.toNat) :
    encryptFn cfg block a kb = encryptFn cfg block b kb := by
  simp only [encryptFn, h]

section LowKeyHalf

variable {v : KeyWord} (h : v.extractLsb' 64 64 = s.DIN_KEY.extractLsb' 64 64)
include h

theorem effectOf_loadkey64_withKey (klen : BitVec 5) :
    effectOf (s.withKey v) (.loadkey 64 klen) = (effectOf s (.loadkey 64 klen)).withKey v := by
  have hnibbles : deriveKeyNibbles (keyBytes v) (64 : BitVec 8).toNat =
      deriveKeyNibbles (keyBytes s.DIN_KEY) (64 : BitVec 8).toNat := deriveKeyNibbles_64_congr h
  simp only [effectOf, State.withKey, hnibbles]

theorem effectOf_encrypt64_withKey (blen : BitVec 4) (klen : BitVec 5) :
    effectOf (s.withKey v) (.encrypt 64 blen klen) = (effectOf s (.encrypt 64 blen klen)).withKey v := by
  have hresult := encryptFn_congr (cfg := s.cfg) (block := blockBytes s.DIN_BLOCK) (kb := 64)
    (deriveKeyNibbles_64_congr h)
  rw [effectOf_encrypt_of_legal _ (.inl rfl), effectOf_encrypt_of_legal _ (.inl rfl)]
  simp only [State.withKey, hresult]

end LowKeyHalf

end Sys2Proof.Machine

open Sys2Proof Sys2Proof.Machine

/-- Settles O40: no check reads DIN_KEY, and the effects with kb = 64 read its upper half only. -/
theorem lowKeyHalfIsIgnoredByLed64 : Obligations.LowKeyHalfIsIgnoredByLed64 := by
  unfold Obligations.LowKeyHalfIsIgnoredByLed64
  intro i blen klen s t v hi hupper hexec
  have heffect : effectOf (s.withKey v) i = (effectOf s i).withKey v := by
    obtain rfl | rfl := hi
    · exact effectOf_loadkey64_withKey hupper klen
    · exact effectOf_encrypt64_withKey hupper blen klen
  exact exec_commutes (f := State.withKey v) (checksOf_withKey v i s) (fun _ => rfl) heffect hexec

/-- Settles O47: one way each byte is its two nibbles, the other way each cell is its nibble; a port value is its bytes. -/
theorem packAndUnpackAreInverse : Obligations.PackAndUnpackAreInverse := by
  unfold Obligations.PackAndUnpackAreInverse
  refine ⟨unpack_pack, pack_unpack, fun V => ?_, pack_blockBytes_get⟩
  rw [unpack_pack, blockOfBytes_blockBytes]

/-- Settles O26: the one check is of BLEN, and the effect packs the port's bytes. -/
theorem loadptResult : Obligations.LoadptResult := by
  unfold Obligations.LoadptResult
  intro s
  have hpass : ∀ c ∈ checksOf s (.loadpt 8), c.1 = true := by simp [checksOf, blockLengthLegal]
  exact ⟨_, exec_of_checks_pass hpass, pack_blockBytes_get s.DIN_BLOCK⟩

/-- Settles O27: both checks pass by hypothesis, and the register takes the port's nibbles. -/
theorem loadkeyResult : Obligations.LoadkeyResult := by
  unfold Obligations.LoadkeyResult
  intro kb klen s hkb hlen
  have hpass : ∀ c ∈ checksOf s (.loadkey kb klen), c.1 = true := by
    simp [checksOf, (keySizeLegal_iff kb).mpr hkb, keyLengthLegal, hlen]
  exact ⟨_, exec_of_checks_pass hpass, keyRegister_deriveKeyNibbles_get s.DIN_KEY kb.toNat⟩

/-- Settles O33: packing the bytes of DOUT gives the state matrix back, so its cells are DOUT's nibbles. -/
theorem readoutResult : Obligations.ReadoutResult := by
  unfold Obligations.ReadoutResult
  intro s hsv
  have hpass : ∀ c ∈ checksOf s .readout, c.1 = true := by simp [checksOf, hsv]
  refine ⟨_, exec_of_checks_pass hpass, fun r c => ?_⟩
  rw [← pack_blockBytes_get, blockBytes_blockOfBytes, pack_unpack]

end

section
/-! The round layers: the whitening and the constants are XORs that undo themselves, the S-box is a bijection of cells,
shiftRows rotates each row, and mixColumns is a product of matrices over GF(2)[x] modulo x^4 + x + 1. -/

namespace Sys2Proof.Machine

/-! ## addKey (R170, R172) -/

theorem addKey_addKey (S : CellMatrix) (K : List Nibble) (step : Nat) (kb : BitVec 8) :
    addKey (addKey S K step kb) K step kb = S := by
  apply cells_ext
  intro i j
  simp only [Fin.getElem_fin, addKey_get, xor_cancel_right]

/-- With a legal key size the key nibble stands in the key register. -/
theorem some_keyNibble {kb : BitVec 8} (hkb : kb = 64 ∨ kb = 128) (K : Vector Nibble 32) (n : Nat) :
    some (keyNibble K.toList n (kb.toNat / 4)) = K[n % (kb.toNat / 4)]? := by
  have hL : 0 < kb.toNat / 4 ∧ kb.toNat / 4 ≤ 32 := by obtain rfl | rfl := hkb <;> decide
  have hn : n % (kb.toNat / 4) < 32 := (Nat.mod_lt n hL.1).trans_le hL.2
  rw [keyNibble_eq hL.1 (by simpa using hn), Vector.getElem?_eq_getElem hn, Vector.getElem_toList]

/-! ## addConstants (R180, R181) -/

theorem addConstants_addConstants (cfg : Config) (S : CellMatrix) (r : Nat) (kb : BitVec 8) :
    addConstants cfg (addConstants cfg S r kb) r kb = S := by
  apply cells_ext
  intro i j
  rw [addConstants_get, addConstants_get, xor_cancel_right]

/-- The masks of R180 take the two 3-bit halves of the round constant. -/
theorem roundConstant_halves (rc : BitVec 6) :
    (rc >>> 3 &&& 7).setWidth 4 = (rc.extractLsb' 3 3).setWidth 4 ∧
    (rc &&& 7).setWidth 4 = (rc.extractLsb' 0 3).setWidth 4 := by
  revert rc
  decide

/-! ## subCells (R190) -/

/-- A permutation S-box holds each nibble, and holds it once. -/
theorem sbox_bijective {cfg : Config} (h : cfg.sboxIsPermutation = true) :
    Function.Bijective fun v : Nibble => cfg.SBOX[v.toNat] := by
  have hcount (v : Nibble) : cfg.SBOX.toList.count v = 1 := by
    have hall := List.all_eq_true.mp h v.toNat (List.mem_range.mpr v.isLt)
    rwa [BitVec.ofNat_toNat, BitVec.setWidth_eq, beq_iff_eq] at hall
  have hnodup : cfg.SBOX.toList.Nodup := List.nodup_iff_count_le_one.mpr fun v => (hcount v).le
  constructor
  · intro a b hab
    have hlt (v : Nibble) : v.toNat < cfg.SBOX.toList.length := by simpa using v.isLt
    exact BitVec.eq_of_toNat_eq ((hnodup.getElem_inj_iff (hi := hlt a) (hj := hlt b)).mp hab)
  · intro v
    have hmem : v ∈ cfg.SBOX.toList := List.count_pos_iff.mp (by simp [hcount])
    obtain ⟨n, hn, rfl⟩ := List.mem_iff_getElem.mp hmem
    exact ⟨BitVec.ofNat 4 n, by simp [Nat.mod_eq_of_lt (show n < 16 by simpa using hn)]⟩

/-- The inverse S-box on each cell undoes subCells. -/
theorem subCells_bijective {cfg : Config} (h : cfg.sboxIsPermutation = true) : Function.Bijective (subCells cfg) := by
  obtain ⟨inv, hleft, hright⟩ := Function.bijective_iff_has_inverse.mp (sbox_bijective h)
  refine Function.bijective_iff_has_inverse.mpr ⟨fun S => ofCells fun r c => inv S[r][c], fun S => ?_, fun S => ?_⟩
  · exact cells_ext fun r c => by simpa using hleft S[r][c]
  · exact cells_ext fun r c => by simpa using hright S[r][c]

/-! ## shiftRows (R195, R197) -/

/-- Row r is rotated left by r. -/
theorem shiftRows_row (S : CellMatrix) (r : Fin 4) : (shiftRows S)[r].toList = S[r].toList.rotate r.val := by
  apply List.ext_getElem
  · simp
  · intro c _ _
    simp [List.getElem_rotate]

/-- A row of four rotated by r four times is rotated by a multiple of its length. -/
theorem shiftRows_four_times (S : CellMatrix) : shiftRows (shiftRows (shiftRows (shiftRows S))) = S := by
  refine Vector.ext fun r hr => Vector.toList_inj.mp ?_
  have hrow (T : CellMatrix) : (shiftRows T)[r].toList = T[r].toList.rotate r := shiftRows_row T ⟨r, hr⟩
  calc (shiftRows (shiftRows (shiftRows (shiftRows S))))[r].toList
    _ = S[r].toList.rotate (r + r + r + r) := by simp only [hrow, List.rotate_rotate]
    _ = S[r].toList.rotate (S[r].toList.length * r) := by rw [Vector.length_toList]; congr 1; omega
    _ = S[r].toList := List.rotate_length_mul _ _

/-! ## mixColumns (R200-R202) -/

/-- A cell matrix as a matrix over GF(2)[x] modulo x^4 + x + 1. -/
noncomputable def gf16Matrix (S : CellMatrix) : Matrix (Fin 4) (Fin 4) (AdjoinRoot gf16Modulus) :=
  Matrix.of fun i j => gf16 S[i][j]

@[simp] theorem gf16Matrix_apply (S : CellMatrix) (i j : Fin 4) : gf16Matrix S i j = gf16 S[i][j] := rfl

theorem gf16Matrix_injective : Function.Injective gf16Matrix := fun _ _ h =>
  cells_ext fun i j => gf16_injective (congrFun₂ h i j)

/-- Cellwise XOR is the sum of the matrices. -/
theorem gf16Matrix_xor (S T : CellMatrix) :
    gf16Matrix (ofCells fun r c => S[r][c] ^^^ T[r][c]) = gf16Matrix S + gf16Matrix T := by
  ext i j
  simp

/-- mixColumns multiplies by the diffusion matrix. -/
theorem gf16Matrix_mixColumns (cfg : Config) (S : CellMatrix) :
    gf16Matrix (mixColumns cfg S) = gf16Matrix cfg.MD * gf16Matrix S := by
  ext i j
  simp [Matrix.mul_apply, Fin.sum_univ_four]

theorem mixColumns_xor (cfg : Config) (S T : CellMatrix) :
    mixColumns cfg (ofCells fun r c => S[r][c] ^^^ T[r][c]) =
      ofCells fun r c => (mixColumns cfg S)[r][c] ^^^ (mixColumns cfg T)[r][c] :=
  gf16Matrix_injective (by simp only [gf16Matrix_mixColumns, gf16Matrix_xor, Matrix.mul_add])

/-- The inverse of the default diffusion matrix. -/
def inverseMD : CellMatrix :=
  #v[#v[0xC, 0xC, 0xD, 0x4], #v[0x3, 0x8, 0x4, 0x5], #v[0x7, 0x6, 0x2, 0xE], #v[0xD, 0x9, 0x9, 0xD]]

theorem gf16Matrix_one : gf16Matrix (ofCells fun i j => if i = j then 1 else 0) = 1 := by
  ext i j
  by_cases hij : i = j <;> simp [hij, Matrix.one_apply]

/-- Multiplying out inverseMD and the default matrix, with mixColumns as the product. -/
theorem inverseMD_mul_defaultMD : gf16Matrix inverseMD * gf16Matrix defaultMD = 1 := by
  have hcells : mixColumns { defaultConfig with MD := inverseMD } defaultMD =
      ofCells fun i j => if i = j then 1 else 0 := by decide
  rw [← gf16Matrix_one, ← hcells, gf16Matrix_mixColumns]

/-- Over the default matrix, mixColumns with the inverse matrix undoes mixColumns on either side. -/
theorem mixColumns_bijective {cfg : Config} (hMD : cfg.MD = defaultMD) : Function.Bijective (mixColumns cfg) := by
  have hright : gf16Matrix defaultMD * gf16Matrix inverseMD = 1 := mul_eq_one_comm.mp inverseMD_mul_defaultMD
  refine Function.bijective_iff_has_inverse.mpr
    ⟨mixColumns { cfg with MD := inverseMD }, fun S => gf16Matrix_injective ?_, fun S => gf16Matrix_injective ?_⟩
  · simp only [gf16Matrix_mixColumns, hMD, ← Matrix.mul_assoc, inverseMD_mul_defaultMD, Matrix.one_mul]
  · simp only [gf16Matrix_mixColumns, hMD, ← Matrix.mul_assoc, hright, Matrix.one_mul]

/-! ## The commands -/

variable {s : State}

theorem execAll_cons_of_checks_pass {i : Instr} (is : List Instr) (h : ∀ c ∈ checksOf s i, c.1 = true) :
    execAll (i :: is) s = execAll is (effectOf s i) := by
  rw [execAll, exec_of_checks_pass h]

theorem addkey_checks_pass (step : BitVec 6) (hsv : s.SV = true) (hkv : s.KV = true) :
    ∀ c ∈ checksOf s (.addkey step), c.1 = true := by
  simp [checksOf, hsv, hkv]

theorem effectOf_addkey_addkey (step : BitVec 6) :
    effectOf (effectOf s (.addkey step)) (.addkey step) = { s with ERR := .noError } := by
  simp only [effectOf, addKey_addKey]

end Sys2Proof.Machine

open Sys2Proof Sys2Proof.Machine

/-- Settles O48: the second XOR cancels the first, and the first ADDKEY leaves SV, KV, K and KBR alone. -/
theorem addKeyIsAnInvolution : Obligations.AddKeyIsAnInvolution := by
  unfold Obligations.AddKeyIsAnInvolution
  refine ⟨addKey_addKey, fun step s t hsv hkv hrun => ?_⟩
  rw [execAll_cons_of_checks_pass _ (addkey_checks_pass step hsv hkv),
    execAll_cons_of_checks_pass _ (addkey_checks_pass (s := effectOf s (.addkey step)) step hsv hkv),
    effectOf_addkey_addkey] at hrun
  cases hrun
  rfl

/-- Settles O49: each cell takes one constant, and taking it twice cancels. -/
theorem addConstantsIsAnInvolution : Obligations.AddConstantsIsAnInvolution := addConstants_addConstants

/-- Settles O50: the S-box is a bijection of the nibbles, so it is one of the matrices, cell by cell. -/
theorem subCellsIsBijective : Obligations.SubCellsIsBijective := fun _ h => subCells_bijective h

/-- Settles O52: the product of matrices distributes over their sum. -/
theorem mixColumnsIsLinear : Obligations.MixColumnsIsLinear := mixColumns_xor

/-- Settles O53: the default diffusion matrix has an inverse. -/
theorem defaultMixColumnsIsBijective : Obligations.DefaultMixColumnsIsBijective := fun _ h => mixColumns_bijective h

/-- Settles O28: both flags are set, and with a legal KBR every index is inside the key register. -/
theorem addkeyResult : Obligations.AddkeyResult := by
  unfold Obligations.AddkeyResult
  intro step s hsv hkv hkb
  refine ⟨_, exec_of_checks_pass (addkey_checks_pass step hsv hkv), fun i j => ?_⟩
  rw [← some_keyNibble hkb]
  simp only [Fin.getElem_fin, addKey_get, xor_comm s.S[i.val][j.val], xor_cancel_right]

/-- Settles O29: each cell takes the constant of its column, by R180's table. -/
theorem addconstResult : Obligations.AddconstResult := by
  unfold Obligations.AddconstResult
  intro r s hsv hkv hr
  have hpass : ∀ c ∈ checksOf s (.addconst r), c.1 = true := by simp [checksOf, hsv, hkv, roundIndexLegal, hr]
  have hcell := addConstants_get s.cfg s.S r.toNat s.KBR
  have hrc : roundConstant s.cfg r.toNat = s.cfg.RC[r.toNat] := dif_pos hr
  obtain ⟨hhigh, hlow⟩ := roundConstant_halves s.cfg.RC[r.toNat]
  refine ⟨_, exec_of_checks_pass hpass, fun i => (hcell i 0).trans ?_, fun i => (hcell i 1).trans ?_,
    fun i => ⟨(hcell i 2).trans ?_, (hcell i 3).trans ?_⟩⟩
  · simp [roundConstantCell, highNibble, lowNibble, xor_assoc]
  · simp only [roundConstantCell, hrc, hhigh, hlow, one_ne_zero, ↓reduceIte, Fin.getElem_fin, Fin.val_one]
  · simp [roundConstantCell]
  · simp [roundConstantCell]

/-- Settles O30: the one check is of SV, and a nibble always indexes the S-box. -/
theorem subcellsResult : Obligations.SubcellsResult := by
  unfold Obligations.SubcellsResult
  intro s hsv
  have hpass : ∀ c ∈ checksOf s .subcells, c.1 = true := by simp [checksOf, hsv]
  refine ⟨_, exec_of_checks_pass hpass, fun r c => ?_⟩
  rw [Vector.getElem?_eq_getElem s.S[r][c].isLt]
  exact congrArg some (subCells_get s.cfg s.S r c r.isLt c.isLt)

/-- Settles O31: the one check is of SV, and shiftRows rotates row by row. -/
theorem shiftrowsResult : Obligations.ShiftrowsResult := by
  unfold Obligations.ShiftrowsResult
  intro s hsv
  have hpass : ∀ c ∈ checksOf s .shiftrows, c.1 = true := by simp [checksOf, hsv]
  exact ⟨_, exec_of_checks_pass hpass, shiftRows_row s.S⟩

/-- Settles O32: the one check is of SV, and the sum over k written out is the four terms of mixColumns. -/
theorem mixcolResult : Obligations.MixcolResult := by
  unfold Obligations.MixcolResult
  intro s hsv
  have hpass : ∀ c ∈ checksOf s .mixcol, c.1 = true := by simp [checksOf, hsv]
  refine ⟨_, exec_of_checks_pass hpass, fun i j => ?_⟩
  simp [List.finRange_succ]

/-- Settles O51: the four rotations of a row add up to a multiple of its length. -/
theorem shiftRowsFourTimesIsTheIdentity : Obligations.ShiftRowsFourTimesIsTheIdentity := shiftRows_four_times

/-- Settles O54: a cell of mixColumns reads its column only, and a row of shiftRows is that row rotated. -/
theorem layersKeepToColumnsAndRows : Obligations.LayersKeepToColumnsAndRows := by
  unfold Obligations.LayersKeepToColumnsAndRows
  refine ⟨fun cfg S T j hcol i => ?_, fun S T r hrow => Vector.toList_inj.mp ?_⟩
  · have hcell (k : Nat) (hk : k < 4) : S[k][j.val] = T[k][j.val] := hcol ⟨k, hk⟩
    simp [hcell]
  · rw [shiftRows_row, shiftRows_row, hrow]

end

section
/-! The orchestrator and the whole cipher: ENCRYPT's result and what it reads, the phases of the state machine as a
list, the cipher run layer by layer through the step port, and its injectivity in the block. -/

namespace Sys2Proof.Machine

/-! ## ENCRYPT's error (R223) -/

/-- The list of checks alone fixes which one fails first: all pass, or one code is reported from every state. -/
theorem checks_pass_or_report (cs : List (Bool × ErrorCode)) :
    (∀ c ∈ cs, c.1 = true) ∨
      ∃ e, (false, e) ∈ cs ∧ ∀ (s : State) (body : Result), afterChecks cs s body = .next (errorState e s) := by
  induction cs with
  | nil => exact .inl (by simp)
  | cons c rest ih =>
    obtain ⟨passes, e⟩ := c
    cases passes with
    | false => exact .inr ⟨e, by simp, fun _ _ => rfl⟩
    | true =>
      obtain hpass | ⟨e', hmem, hreport⟩ := ih
      · exact .inl (by simpa using hpass)
      · exact .inr ⟨e', by simp [hmem], hreport⟩

/-! ## The phases of the state machine (R221) -/

/-- The phases of the next n transitions from s, in order. -/
def phaseTrace (n : Nat) (s : State) : List Phase := (List.range n).map fun k => (runOrchestrator k s).enc.PH

theorem phaseTrace_add (m n : Nat) (s : State) :
    phaseTrace (m + n) s = phaseTrace m s ++ phaseTrace n (runOrchestrator m s) := by
  simp [phaseTrace, List.range_add, runOrchestrator_add]

theorem phaseTrace_one (s : State) : phaseTrace 1 s = [s.enc.PH] := rfl

/-- The four layers of one round, in order (R212). -/
def roundPhases : List Phase := [.ac, .sc, .sr, .mc]

/-- The phases of one group: four rounds and the whitening after them (R210). -/
def groupPhases : List Phase := (List.replicate 4 roundPhases).flatten ++ [.ak]

theorem phaseTrace_round {s : State} (hph : s.enc.PH = .ac) : phaseTrace 4 s = roundPhases := by
  simp [phaseTrace, List.range_succ, runOrchestrator, orchestratorStep, hph, phaseAC, phaseSC, phaseSR, roundPhases]

/-- Within a group, k rounds from AC pass the four layers k times. -/
theorem phaseTrace_rounds {s : State} {g : Nat} (hph : s.enc.PH = .ac) (hr : s.enc.RND = BitVec.ofNat 6 (4 * g))
    (hg : g < 12) (k : Nat) (hk : k ≤ 4) : phaseTrace (4 * k) s = (List.replicate k roundPhases).flatten := by
  induction k with
  | zero => rfl
  | succ k ih =>
    rw [Nat.mul_succ, phaseTrace_add, ih (by omega), runOrchestrator_rounds s g k hph hr hg (by omega),
      phaseTrace_round (by exact hph), List.replicate_succ', List.flatten_concat]

theorem phaseTrace_group (s : State) (block : Vector Byte 8) (bytes : List Byte) {kb : BitVec 8} {g : Nat}
    (hg : g < groupCount kb.toNat) :
    phaseTrace 17 { s with enc := orchestratorAfterGroups s.cfg block bytes kb g } = groupPhases := by
  have hcount := roundCount_eq_four_mul_groupCount kb.toNat
  have hg12 : g < 12 := Nat.lt_of_lt_of_le hg (groupCount_le kb.toNat)
  have hac : (orchestratorAfterGroups s.cfg block bytes kb g).PH = .ac := if_neg (by omega)
  rw [phaseTrace_add 16 1, phaseTrace_rounds (k := 4) (g := g) hac rfl hg12 le_rfl,
    runOrchestrator_fourRounds _ g hac rfl hg12, phaseTrace_one, groupPhases]

/-- From its start the machine passes the first whitening and then one group after another. -/
theorem phaseTrace_start (s : State) (block : Vector Byte 8) (bytes : List Byte) {kb : BitVec 8}
    (hkb : kb = 64 ∨ kb = 128) (g : Nat) (hg : g ≤ groupCount kb.toNat) :
    phaseTrace (1 + 17 * g) { s with enc := startOrchestrator block bytes kb } =
      .ak :: (List.replicate g groupPhases).flatten := by
  induction g with
  | zero => rfl
  | succ g ih =>
    rw [Nat.mul_succ, ← Nat.add_assoc, phaseTrace_add, ih (by omega),
      runOrchestrator_groups s block bytes hkb g (by omega), phaseTrace_group s block bytes hg,
      List.replicate_succ', List.flatten_concat, List.cons_append]

/-- How often a phase occurs in a run of g groups after the first whitening. -/
theorem count_groupPhases (p : Phase) (g : Nat) :
    (Phase.ak :: (List.replicate g groupPhases).flatten).count p =
      g * groupPhases.count p + if p = .ak then 1 else 0 := by
  simp [List.count_cons, List.count_flatten, eq_comm (a := p)]

theorem layer_of_mem_groupPhases {p : Phase} {g : Nat} (h : p ∈ Phase.ak :: (List.replicate g groupPhases).flatten) :
    p ≠ .out ∧ p ≠ .idle := by
  have hlayers : ∀ q ∈ groupPhases, q ≠ .out ∧ q ≠ .idle := by decide
  obtain rfl | hmem := List.mem_cons.mp h
  · decide
  · obtain ⟨l, hl, hp⟩ := List.mem_flatten.mp hmem
    exact hlayers p (List.eq_of_mem_replicate hl ▸ hp)

theorem groupCount_eq {kb : BitVec 8} (hkb : kb = 64 ∨ kb = 128) :
    groupCount kb.toNat = if kb = 64 then 8 else 12 := by
  obtain rfl | rfl := hkb <;> rfl

/-- The registers that steer the orchestrator agree: phase, counters and key size (R62-R65). -/
structure SameControl (s s' : State) : Prop where
  PH : s.enc.PH = s'.enc.PH
  RND : s.enc.RND = s'.enc.RND
  WS : s.enc.WS = s'.enc.WS
  EKB : s.enc.EKB = s'.enc.EKB

/-- A transition sets the steering registers from the steering registers alone. -/
theorem SameControl.step {s s' : State} (h : SameControl s s') :
    SameControl (orchestratorStep s) (orchestratorStep s') := by
  obtain ⟨hPH, hRND, hWS, hEKB⟩ := h
  cases hph : s.enc.PH with
  | mc =>
    by_cases hend : (s'.enc.RND + 1).toNat % 4 = 0
    all_goals constructor <;> simp only [orchestratorStep, ← hPH, hph, phaseMC, hRND, hWS, hEKB, hend, ↓reduceIte]
  | _ => constructor <;> simp [orchestratorStep, ← hPH, hph, phaseAK, phaseAC, phaseSC, phaseSR, hRND, hWS, hEKB]

theorem SameControl.run {s s' : State} (h : SameControl s s') (n : Nat) :
    SameControl (runOrchestrator n s) (runOrchestrator n s') := by
  induction n generalizing s s' with
  | zero => exact h
  | succ n ih => exact ih h.step

/-! ## The cipher through the step port (R225) -/

theorem execAll_append {is js : List Instr} {s t : State} (h : execAll is s = .next t) :
    execAll (is ++ js) s = execAll js t := by
  induction is generalizing s with
  | nil => cases h; rfl
  | cons i is ih =>
    rw [List.cons_append, execAll]
    rw [execAll] at h
    cases hexec : exec i s with
    | next u => rw [hexec] at h; exact ih h
    | fault r => cases r
    | refused r => rw [hexec] at h; cases h

/-- s with the state matrix T, after a command that completes: what a layer's command answers. -/
def State.withMatrix (s : State) (T : CellMatrix) : State := { s with S := T, ERR := .noError }

/-- Blocks of commands one after another, the k-th with the effect `f · k` on the state matrix, fold these effects. -/
theorem execAll_flatMap_range {s : State} {cmds : Nat → List Instr} {f : CellMatrix → Nat → CellMatrix} (n : Nat)
    (h : ∀ k < n, ∀ T, execAll (cmds k) (s.withMatrix T) = .next (s.withMatrix (f T k))) (T : CellMatrix) :
    execAll ((List.range n).flatMap cmds) (s.withMatrix T) = .next (s.withMatrix ((List.range n).foldl f T)) := by
  induction n with
  | zero => rfl
  | succ n ih =>
    simp only [List.range_succ, List.flatMap_append, List.flatMap_singleton, List.foldl_append, List.foldl_cons,
      List.foldl_nil]
    rw [execAll_append (ih fun k hk => h k (by omega)), h n (by omega)]

variable {s : State}

section Loaded

variable (hsv : s.SV = true) (hkv : s.KV = true)
include hsv hkv

/-- The four commands of a round make round r of the state matrix. -/
theorem execAll_roundCommands {r : Nat} (hr : r < 48) (T : CellMatrix) :
    execAll (roundCommands r) (s.withMatrix T) = .next (s.withMatrix (roundFn s.cfg s.KBR r T)) := by
  have hnum : r % 64 = r := by omega
  simp [roundCommands, execAll, exec_eq_afterChecks, checksOf, effectOf, State.withMatrix, hsv, hkv, roundIndexLegal,
    hnum, hr, roundFn]

theorem execAll_addkey (step : BitVec 6) (T : CellMatrix) :
    execAll [.addkey step] (s.withMatrix T) = .next (s.withMatrix (addKey T s.K.toList step.toNat s.KBR)) :=
  execAll_cons_of_checks_pass (s := s.withMatrix T) [] (addkey_checks_pass step hsv hkv)

/-- The commands of a group make its four rounds and the whitening after them. -/
theorem execAll_groupCommands {g : Nat} (hg : g < 12) (T : CellMatrix) :
    execAll (groupCommands g) (s.withMatrix T) = .next (s.withMatrix (groupFn s.cfg s.K.toList s.KBR T g)) := by
  have hsplit : groupCommands g =
      (List.range 4).flatMap (fun sub => roundCommands (g * 4 + sub)) ++ [.addkey (BitVec.ofNat 6 (g + 1))] := by
    simp [groupCommands, List.range_succ, Nat.mul_comm 4 g]
  have hnum : (g + 1) % 64 = g + 1 := by omega
  rw [hsplit, execAll_append (execAll_flatMap_range 4
    (fun sub _ => execAll_roundCommands hsv hkv (r := g * 4 + sub) (by omega)) T), execAll_addkey hsv hkv]
  simp [groupFn, hnum]

theorem execAll_groupsCommands (n : Nat) (hn : n ≤ 12) (T : CellMatrix) :
    execAll (groupsCommands n) (s.withMatrix T) =
      .next (s.withMatrix ((List.range n).foldl (groupFn s.cfg s.K.toList s.KBR) T)) :=
  execAll_flatMap_range n (fun _ hg => execAll_groupCommands hsv hkv (by omega)) T

end Loaded

/-- A group reads the same key nibbles from the 32-cell register as from the key array it holds. -/
theorem groupFn_keyRegister (cfg : Config) {N : List Nibble} {kb : BitVec 8} (hkb : kb = 64 ∨ kb = 128)
    (hN : N.length = kb.toNat / 4) : groupFn cfg (keyRegister N).toList kb = groupFn cfg N kb := by
  funext S g
  exact addKey_keyRegister hkb hN _ _

/-- The commands of stepenc64 and stepenc128, for the key size kb. -/
def stepCommands (kb : BitVec 8) (klen : BitVec 5) : List Instr :=
  [.loadpt 8, .loadkey kb klen, .addkey 0] ++ groupsCommands (groupCount kb.toNat) ++ [.readout]

theorem stepCommands_64 : stepCommands 64 8 = stepenc64 := rfl

theorem stepCommands_128 : stepCommands 128 16 = stepenc128 := rfl

/-- s with its key loaded from DIN_KEY, and both flags set. -/
def State.withLoadedKey (s : State) (kb : BitVec 8) : State :=
  { s with SV := true, K := keyRegister (deriveKeyNibbles (keyBytes s.DIN_KEY) kb.toNat), KBR := kb, KV := true }

section Step

variable {kb : BitVec 8} {klen : BitVec 5} (hkb : kb = 64 ∨ kb = 128) (hlen : kb.toNat / 8 ≤ klen.toNat)
include hkb hlen

/-- The two loads and the first whitening. -/
theorem execAll_loads :
    execAll [.loadpt 8, .loadkey kb klen, .addkey 0] s = .next ((s.withLoadedKey kb).withMatrix
      (addKey (pack (blockBytes s.DIN_BLOCK)) (s.withLoadedKey kb).K.toList 0 kb)) := by
  simp [execAll, exec_eq_afterChecks, checksOf, effectOf, blockLengthLegal, (keySizeLegal_iff kb).mpr hkb,
    keyLengthLegal, hlen, State.withLoadedKey, State.withMatrix]

/-- Run one layer per command, the cipher completes with encryptFn of the ports in DOUT. -/
theorem execAll_stepCommands :
    ∃ t, execAll (stepCommands kb klen) s = .next t ∧
      t.DOUT = blockOfBytes (encryptFn s.cfg (blockBytes s.DIN_BLOCK) (keyBytes s.DIN_KEY) kb) ∧
      t.OV = true ∧ t.ERR = .noError ∧ t.ERRS = s.ERRS := by
  have hN := deriveKeyNibbles_length (keyBytes s.DIN_KEY) kb.toNat
  have hgroups := execAll_groupsCommands (s := s.withLoadedKey kb) rfl rfl (groupCount kb.toNat) (groupCount_le _)
  rw [stepCommands, List.append_assoc, execAll_append (execAll_loads hkb hlen), execAll_append (hgroups _),
    execAll_cons_of_checks_pass [] (by simp [checksOf, State.withMatrix, State.withLoadedKey])]
  refine ⟨_, rfl, ?_, rfl, rfl, rfl⟩
  simp only [effectOf, State.withMatrix, State.withLoadedKey, groupFn_keyRegister s.cfg hkb hN,
    addKey_keyRegister hkb hN, encryptFn]

end Step

/-! ## Injectivity in the block -/

/-- A fold of functions that are each injective is injective in its start. -/
theorem foldl_injective {α β : Type} {f : β → α → β} (hf : ∀ a, Function.Injective (f · a)) (l : List α) :
    Function.Injective (l.foldl f) := by
  induction l with
  | nil => exact fun _ _ h => h
  | cons a l ih => exact ih.comp (hf a)

theorem addKey_injective (K : List Nibble) (step : Nat) (kb : BitVec 8) :
    Function.Injective (addKey · K step kb) :=
  Function.Involutive.injective fun S => addKey_addKey S K step kb

theorem addConstants_injective (cfg : Config) (r : Nat) (kb : BitVec 8) :
    Function.Injective (addConstants cfg · r kb) :=
  Function.Involutive.injective fun S => addConstants_addConstants cfg S r kb

theorem shiftRows_injective : Function.Injective shiftRows :=
  Function.LeftInverse.injective (g := fun S => shiftRows (shiftRows (shiftRows S))) shiftRows_four_times

theorem pack_injective : Function.Injective pack := Function.LeftInverse.injective unpack_pack

theorem unpack_injective : Function.Injective unpack := Function.LeftInverse.injective pack_unpack

section Injectivity

variable {cfg : Config} (hsbox : cfg.sboxIsPermutation = true) (hMD : cfg.MD = defaultMD)
include hsbox hMD

/-- Each of the four layers of a round is injective. -/
theorem roundFn_injective (kb : BitVec 8) (r : Nat) : Function.Injective (roundFn cfg kb r) :=
  (mixColumns_bijective hMD).injective.comp
    (shiftRows_injective.comp ((subCells_bijective hsbox).injective.comp (addConstants_injective cfg r kb)))

theorem groupFn_injective (K : List Nibble) (kb : BitVec 8) (g : Nat) : Function.Injective (groupFn cfg K kb · g) :=
  (addKey_injective K (g + 1) kb).comp
    (foldl_injective (fun sub => roundFn_injective hsbox hMD kb (g * 4 + sub)) (List.range 4))

theorem encryptFn_injective (bytes : List Byte) (kb : BitVec 8) :
    Function.Injective fun block => encryptFn cfg block bytes kb :=
  unpack_injective.comp ((foldl_injective (groupFn_injective hsbox hMD _ kb) _).comp
    ((addKey_injective _ 0 kb).comp pack_injective))

end Injectivity

end Sys2Proof.Machine

open Sys2Proof Sys2Proof.Machine

/-- Settles O34: the checks pass, and the state machine ends with encryptFn in DOUT. -/
theorem encryptResult : Obligations.EncryptResult := by
  unfold Obligations.EncryptResult
  intro kb klen s hkb hlen
  exact exec_encrypt_of_legal s ((keySizeLegal_iff kb).mpr hkb) (by simpa [keyLengthLegal] using hlen)

/-- Settles O41: ENCRYPT's checks read its operands only, so the same one fails in both states, or none; and
encryptFn reads the tables and the ports. -/
theorem encryptDependsOnItsPortsOnly : Obligations.EncryptDependsOnItsPortsOnly := by
  unfold Obligations.EncryptDependsOnItsPortsOnly
  intro kb blen klen s s' t t' hcfg hblock hkey h h'
  have hchecks : checksOf s' (.encrypt kb blen klen) = checksOf s (.encrypt kb blen klen) := rfl
  rw [exec_eq_afterChecks] at h h'
  rw [hchecks] at h'
  obtain hpass | ⟨e, hmem, hreport⟩ := checks_pass_or_report (checksOf s (.encrypt kb blen klen))
  · have hkb := (keySizeLegal_iff kb).mp (hpass (_, .configError) (.head _))
    rw [afterChecks_of_all_pass hpass, effectOf_encrypt_of_legal _ hkb] at h h'
    cases h
    cases h'
    simp [hcfg, hblock, hkey]
  · rw [hreport] at h h'
    cases h
    cases h'
    exact ⟨rfl, fun herr => absurd herr (checksOf_error _ s _ hmem).1⟩

/-- Settles O55: the phases are one whitening and then the same seventeen for each group, and no transition sets a
phase or a counter from the data. -/
theorem orchestratorTransitions : Obligations.OrchestratorTransitions := by
  unfold Obligations.OrchestratorTransitions
  refine ⟨fun s block bytes kb hkb => ?_, fun n s s' hPH hRND hWS hEKB => ?_⟩
  · rw [← groupCount_eq hkb]
    intro G phase
    have htrace : (List.range (1 + 17 * G)).map phase = .ak :: (List.replicate G groupPhases).flatten :=
      phaseTrace_start s block bytes hkb G le_rfl
    have hcount (p : Phase) := (congrArg (List.count p) htrace).trans (count_groupPhases p G)
    refine ⟨fun n hn => ?_, ?_, ?_, ?_⟩
    · have hmem : phase n ∈ (List.range (1 + 17 * G)).map phase := List.mem_map_of_mem (List.mem_range.mpr hn)
      exact layer_of_mem_groupPhases (htrace ▸ hmem)
    · simp only [phase, G, runOrchestrator_groups s block bytes hkb _ le_rfl]
      exact if_pos (roundCount_eq_four_mul_groupCount kb.toNat).symm
    · exact congrArg State.enc (runOrchestrator_start s block bytes hkb)
    · simp [hcount, groupPhases, roundPhases, Nat.mul_comm]
  · obtain ⟨hph, hrnd, hws, -⟩ := SameControl.run ⟨hPH, hRND, hWS, hEKB⟩ n
    exact ⟨hph, hrnd, hws⟩

/-- Settles O56, by the simulation of encryptFn group by group. -/
theorem orchestratorComputesEncryptFn : Obligations.OrchestratorComputesEncryptFn := by
  unfold Obligations.OrchestratorComputesEncryptFn
  exact fun s block bytes _ hkb => runOrchestrator_start s block bytes hkb

/-- Settles O57: for each key size both ways end with encryptFn of the ports in DOUT. -/
theorem stepCommandsComputeWhatEncryptComputes : Obligations.StepCommandsComputeWhatEncryptComputes := by
  unfold Obligations.StepCommandsComputeWhatEncryptComputes
  rw [← stepCommands_64, ← stepCommands_128]
  intro s
  obtain ⟨t64, hrun64, hDOUT64, hrest64⟩ := execAll_stepCommands (s := s) (kb := 64) (klen := 8) (.inl rfl) (by decide)
  obtain ⟨t128, hrun128, hDOUT128, hrest128⟩ :=
    execAll_stepCommands (s := s) (kb := 128) (klen := 16) (.inr rfl) (by decide)
  exact ⟨⟨t64, _, hrun64, encryptResult 64 8 s (.inl rfl) (by decide), hDOUT64, hrest64⟩,
    t128, _, hrun128, encryptResult 128 16 s (.inr rfl) (by decide), hDOUT128, hrest128⟩

/-- Settles O59: unpack, the groups, the first whitening and pack are each injective. -/
theorem encryptionIsInjectiveInTheBlock : Obligations.EncryptionIsInjectiveInTheBlock := by
  unfold Obligations.EncryptionIsInjectiveInTheBlock
  exact fun _ bytes kb hsbox hMD _ => encryptFn_injective hsbox hMD bytes kb
end

section
/-! Exceptions: a command reports the first of its checks that fails, in R249's order, and the outcomes of R240-R252 are
read off its list of checks. -/

namespace Sys2Proof.Machine

variable {i : Instr} {w : Word} {s t : State} {e : ErrorCode}

/-! ## The first failed check (R249) -/

/-- The code of the first check that fails, or NONE. -/
@[simp] def firstFailed : List (Bool × ErrorCode) → ErrorCode
  | [] => .noError
  | (passes, e) :: rest => if passes = false then e else firstFailed rest

/-- Checks all pass, or the first that fails decides their answer, from every state. -/
theorem checks_pass_or_firstFailed (cs : List (Bool × ErrorCode)) :
    ((∀ c ∈ cs, c.1 = true) ∧ firstFailed cs = .noError) ∨
    ((false, firstFailed cs) ∈ cs ∧
      ∀ (s : State) (body : Result), afterChecks cs s body = .next (errorState (firstFailed cs) s)) := by
  induction cs with
  | nil => simp
  | cons c rest ih =>
    obtain ⟨passes, e⟩ := c
    cases passes with
    | false => simp
    | true => simpa using ih

/-- A command passes its checks, or ends in the code of the first that fails. -/
theorem exec_cases_firstFailed (i : Instr) (s : State) :
    ((∀ c ∈ checksOf s i, c.1 = true) ∧ firstFailed (checksOf s i) = .noError) ∨
    (firstFailed (checksOf s i) ≠ .noError ∧ exec i s = .next (errorState (firstFailed (checksOf s i)) s)) := by
  obtain hpass | ⟨hmem, hfail⟩ := checks_pass_or_firstFailed (checksOf s i)
  · exact .inl hpass
  · exact .inr ⟨(checksOf_error i s _ hmem).1, by rw [exec_eq_afterChecks, hfail]⟩

theorem exec_ERR (h : exec i s = .next t) : t.ERR = firstFailed (checksOf s i) := by
  obtain ⟨hpass, hnone⟩ | ⟨-, heq⟩ := exec_cases_firstFailed i s
  · rw [exec_of_checks_pass hpass] at h
    cases h
    rw [effectOf_ERR hpass, hnone]
  · rw [heq] at h
    cases h
    rfl

theorem exec_of_firstFailed (h : firstFailed (checksOf s i) = e) (he : e ≠ .noError) :
    exec i s = .next (errorState e s) := by
  subst h
  obtain ⟨-, hnone⟩ | ⟨-, heq⟩ := exec_cases_firstFailed i s
  · exact absurd hnone he
  · exact heq

/-- A command that does not report NONE answers the error outcome of its code (R250). -/
theorem eq_errorState_of_exec (h : exec i s = .next t) (herr : t.ERR ≠ .noError) : t = errorState t.ERR s := by
  obtain ⟨hpass, rfl⟩ | ⟨e, -, rfl⟩ := exec_next h
  · exact absurd (effectOf_ERR hpass) herr
  · rfl

/-! ## When each operand check fails (R242-R244, R248) -/

@[simp] theorem keySizeLegal_eq_false_iff (kb : Nat) : keySizeLegal kb = false ↔ kb ≠ 64 ∧ kb ≠ 128 := by
  simp [keySizeLegal]

@[simp] theorem blockLengthLegal_eq_false_iff (blen : BitVec 4) : blockLengthLegal blen.toNat = false ↔ blen ≠ 8 := by
  simp [blockLengthLegal, BitVec.toNat_eq]

@[simp] theorem keyLengthLegal_eq_false_iff (kb klen : Nat) : keyLengthLegal kb klen = false ↔ klen < kb / 8 := by
  simp [keyLengthLegal]

@[simp] theorem roundIndexLegal_eq_false_iff (r : Nat) : roundIndexLegal r = false ↔ 48 ≤ r := by
  simp [roundIndexLegal]

/-! ## Issued words (R92, R241) -/

/-- The operands of a command are the word's fields (R92). -/
def OperandsAreFields (w : Word) : Instr → Prop
  | .gfmul a b => a = fieldA w ∧ b = fieldB w
  | .loadpt blen => blen = fieldBLEN w
  | .loadkey kb klen => kb = fieldKB w ∧ klen = fieldKLEN w
  | .addkey step => step = fieldIDX w
  | .addconst r => r = fieldIDX w
  | .encrypt kb blen klen => kb = fieldKB w ∧ blen = fieldBLEN w ∧ klen = fieldKLEN w
  | .subcells | .shiftrows | .mixcol | .readout => True

theorem decode_fields {stepPort : Bool} (h : decode stepPort w = .ok i) :
    fieldOP w = i.opcode ∧ OperandsAreFields w i := by
  obtain ⟨row, hrow, hmatch, -, rfl⟩ := decode_eq_ok_iff.mp h
  refine ⟨(fieldOP_of_matches hrow hmatch).trans (opcode_build hrow w).symm, ?_⟩
  clear hmatch h
  revert row
  simp [opTable, OperandsAreFields]

theorem issue_of_decode_ok (h : decode s.cfg.STEP_PORT w = .ok i) : issue w s = exec i s := by
  simp only [issue, h]

theorem issue_of_illegalWord (h : illegalWord s.cfg.STEP_PORT w) :
    issue w s = .next (errorState .illegalCommand s) := by
  obtain ⟨why, hdec⟩ := decode_error_iff_illegalWord.mpr h
  simp only [issue, hdec, raiseError_eq]

theorem issue_of_firstFailed (hdec : decode s.cfg.STEP_PORT w = .ok i) (h : firstFailed (checksOf s i) = e)
    (he : e ≠ .noError) : issue w s = .next (errorState e s) :=
  (issue_of_decode_ok hdec).trans (exec_of_firstFailed h he)

/-- A key size other than 64 and 128 is reported before any length (R242, R249). -/
theorem issue_of_illegal_keySize {kb : BitVec 8} {blen : BitVec 4} {klen : BitVec 5}
    (hdec : decode s.cfg.STEP_PORT w = .ok (.loadkey kb klen) ∨ decode s.cfg.STEP_PORT w = .ok (.encrypt kb blen klen))
    (h64 : kb ≠ 64) (h128 : kb ≠ 128) : issue w s = .next (errorState .configError s) := by
  have hsize : keySizeLegal kb.toNat = false := by simpa [BitVec.toNat_eq] using And.intro h64 h128
  obtain hdec | hdec := hdec
  · exact issue_of_firstFailed hdec (by simp [checksOf, hsize]) (by decide)
  · exact issue_of_firstFailed hdec (by simp [checksOf, hsize]) (by decide)

theorem firstError_of_illegalWord (h : illegalWord s.cfg.STEP_PORT w) : firstError w s = .illegalCommand :=
  if_pos h

/-- For a legal word the order of R249 is the order of its command's checks. -/
theorem firstError_of_decode_ok (h : decode s.cfg.STEP_PORT w = .ok i) :
    firstError w s = firstFailed (checksOf s i) := by
  have hlegal : ¬ illegalWord s.cfg.STEP_PORT w := by simp [← decode_error_iff_illegalWord, h]
  obtain ⟨hop, hfields⟩ := decode_fields h
  rw [firstError, if_neg hlegal, hop]
  cases i with
  | loadpt | loadkey | addconst | encrypt =>
    simp only [OperandsAreFields] at hfields
    simp [Instr.opcode, checksOf, hfields]
  | _ => simp [Instr.opcode, checksOf]

/-! ## Every step answers a next state (R252) -/

theorem exists_exec_eq_next (i : Instr) (s : State) : ∃ t, exec i s = .next t := by
  obtain ⟨-, heq⟩ | ⟨e, -, -, heq⟩ := exec_cases i s
  · exact ⟨_, heq⟩
  · exact ⟨_, heq⟩

theorem exists_issue_eq_next (w : Word) (s : State) : ∃ t, issue w s = .next t := by
  obtain ⟨i, -, heq⟩ | ⟨why, -, heq⟩ := issue_cases w s
  · exact heq ▸ exists_exec_eq_next i s
  · exact ⟨_, heq⟩

theorem exists_applyEvent_eq_next (ev : HostEvent) (s : State) : ∃ t, applyEvent ev s = .next t := by
  cases ev with
  | issue w => exact exists_issue_eq_next w s
  | driveBlock v | driveKey v | reset => exact ⟨_, rfl⟩

end Sys2Proof.Machine

open Sys2Proof Sys2Proof.Machine

/-- Settles O8: a command completes or ends in an error, an illegal word ends in one, and the other events
always happen. -/
theorem everyStepAnswersANextState : Obligations.EveryStepAnswersANextState := by
  unfold Obligations.EveryStepAnswersANextState
  refine ⟨exists_issue_eq_next, fun s => ?_⟩
  obtain ⟨-, heq⟩ | ⟨ev, rest, -, heq⟩ := step_cases s
  · exact ⟨s, heq⟩
  · exact heq ▸ exists_applyEvent_eq_next ev _

/-- Settles O14: a command that completes reports NONE, and every other answer, an illegal word's too, is the error outcome. -/
theorem errorOutcomeIsPrecise : Obligations.ErrorOutcomeIsPrecise := by
  unfold Obligations.ErrorOutcomeIsPrecise
  refine ⟨fun i s t h herr => eq_errorState_of_exec h herr, fun w s t h herr => ?_⟩
  obtain ⟨i, -, heq⟩ | ⟨why, -, heq⟩ := issue_cases w s <;> rw [heq] at h
  · exact eq_errorState_of_exec h herr
  · cases h
    rfl

/-- Settles O15: no command's effect writes ERRS, and an error does not report NONE. -/
theorem completionLeavesErrs : Obligations.CompletionLeavesErrs := by
  unfold Obligations.CompletionLeavesErrs
  intro i s t h hnone
  obtain ⟨hpass, rfl⟩ | ⟨e, he, rfl⟩ := exec_next h
  · exact effectOf_ERRS hpass
  · exact absurd hnone he

/-- Settles O16: an illegal word comes first, and a legal one reports the first failed check of its command. -/
theorem firstFailedCheckIsReported : Obligations.FirstFailedCheckIsReported := by
  unfold Obligations.FirstFailedCheckIsReported
  intro w s t h
  obtain ⟨i, hdec, heq⟩ | ⟨why, hdec, heq⟩ := issue_cases w s <;> rw [heq] at h
  · rw [exec_ERR h, firstError_of_decode_ok hdec]
  · cases h
    exact (firstError_of_illegalWord (decode_error_iff_illegalWord.mp ⟨why, hdec⟩)).symm

/-- Settles O23: an error's code is that of one of the command's checks, and ENCRYPT's checks have codes 1, 2 and 3. -/
theorem encryptReportsOnlyTheDocumentsErrors : Obligations.EncryptReportsOnlyTheDocumentsErrors := by
  unfold Obligations.EncryptReportsOnlyTheDocumentsErrors
  intro i s t h
  refine ⟨exec_ERR_ne_illegalCommand h, ?_⟩
  rintro ⟨kb, blen, klen, rfl⟩
  obtain ⟨-, hnone⟩ | ⟨hmem, -⟩ := checks_pass_or_firstFailed (checksOf s (.encrypt kb blen klen))
  · exact .inl ((exec_ERR h).trans hnone)
  · rw [← exec_ERR h] at hmem
    simp only [checksOf, List.mem_cons, Prod.mk.injEq, List.not_mem_nil, or_false] at hmem
    exact .inr (hmem.imp And.right (Or.imp And.right And.right))

/-- Settles O6: the step is the event, and the event is the command its word decodes to. -/
theorem stepRunsTheDecodedCommand : Obligations.StepRunsTheDecodedCommand := by
  unfold Obligations.StepRunsTheDecodedCommand
  intro s w rest i hev hdec
  exact (step_of_events_cons hev).trans (issue_of_decode_ok hdec)

/-- Settles O7: each of the three kinds of illegal word decodes to no command. -/
theorem illegalWordRaisesIllegalCommand : Obligations.IllegalWordRaisesIllegalCommand := by
  unfold Obligations.IllegalWordRaisesIllegalCommand
  refine ⟨rfl, fun s w rest hev hkind => ?_⟩
  have hillegal : illegalWord s.cfg.STEP_PORT w := hkind.imp_right Or.symm
  exact (step_of_events_cons hev).trans (issue_of_illegalWord hillegal)

/-- Settles O9: with no event the step is the idle step. -/
theorem idleKeepsAllState : Obligations.IdleKeepsAllState := by
  unfold Obligations.IdleKeepsAllState
  intro s hev
  simp [step, nextEvent, hev]

/-- Settles O17: the check of kb is the first one of both commands. -/
theorem configErrorOnIllegalKeySize : Obligations.ConfigErrorOnIllegalKeySize := by
  unfold Obligations.ConfigErrorOnIllegalKeySize
  refine ⟨rfl, fun s w kb blen klen hdec => ⟨?_, fun ⟨h64, h128⟩ => issue_of_illegal_keySize hdec h64 h128⟩⟩
  obtain hdec | hdec := hdec
  · exact (decode_fields hdec).2.1
  · exact (decode_fields hdec).2.1

/-- Settles O18: the check of BLEN is LOADPT's only one, and ENCRYPT's next one after the check of kb. -/
theorem blockLengthErrorUnlessEight : Obligations.BlockLengthErrorUnlessEight := by
  unfold Obligations.BlockLengthErrorUnlessEight
  refine ⟨rfl, fun s w kb blen klen hdec => ?_⟩
  obtain hdec | ⟨hdec, hkb⟩ := hdec
  · refine ⟨(decode_fields hdec).2, fun hblen => issue_of_firstFailed hdec ?_ (by decide)⟩
    simp [checksOf, (blockLengthLegal_eq_false_iff blen).mpr hblen]
  · refine ⟨(decode_fields hdec).2.2.1, fun hblen => issue_of_firstFailed hdec ?_ (by decide)⟩
    simp [checksOf, (keySizeLegal_iff kb).mpr hkb, (blockLengthLegal_eq_false_iff blen).mpr hblen]

/-- Settles O19: with a legal kb (and BLEN = 8) the check of KLEN is next, and with another kb the check of kb comes
before it. -/
theorem keyLengthErrorOnShortKey : Obligations.KeyLengthErrorOnShortKey := by
  unfold Obligations.KeyLengthErrorOnShortKey
  refine ⟨rfl, fun s w kb klen hdec => ⟨?_, fun hshort => ?_, fun ⟨h64, h128⟩ => ?_⟩⟩
  · obtain hdec | hdec := hdec
    · exact (decode_fields hdec).2.2
    · exact (decode_fields hdec).2.2.2
  · have hsize : keySizeLegal kb.toNat = true := (keySizeLegal_iff kb).mpr (hshort.imp And.left And.left)
    have hlen : klen.toNat < kb.toNat / 8 := by obtain ⟨rfl, hlt⟩ | ⟨rfl, hlt⟩ := hshort <;> exact hlt
    obtain hdec | hdec := hdec
    · exact issue_of_firstFailed hdec (by simp [checksOf, hsize, hlen]) (by decide)
    · exact issue_of_firstFailed hdec (by simp [checksOf, hsize, blockLengthLegal, hlen]) (by decide)
  · exact ⟨_, issue_of_illegal_keySize hdec h64 h128, by simp⟩

/-- Settles O20: the check of SV is the first one of each of the six commands. -/
theorem stateNotLoadedWhileSvIsClear : Obligations.StateNotLoadedWhileSvIsClear := by
  unfold Obligations.StateNotLoadedWhileSvIsClear
  refine ⟨rfl, fun s i hsv hi => exec_of_firstFailed ?_ (by decide)⟩
  obtain ⟨step, rfl⟩ | ⟨r, rfl⟩ | rfl | rfl | rfl | rfl := hi
  all_goals simp [checksOf, hsv]

/-- Settles O21: both commands check KV right after SV. -/
theorem keyNotLoadedWhileKvIsClear : Obligations.KeyNotLoadedWhileKvIsClear := by
  unfold Obligations.KeyNotLoadedWhileKvIsClear
  refine ⟨rfl, fun s i hsv hkv hi => exec_of_firstFailed ?_ (by decide)⟩
  obtain ⟨step, rfl⟩ | ⟨r, rfl⟩ := hi
  all_goals simp [checksOf, hsv, hkv]

/-- Settles O22: ADDCONST checks the index last, after SV and KV. -/
theorem rangeErrorFromFortyEight : Obligations.RangeErrorFromFortyEight := by
  unfold Obligations.RangeErrorFromFortyEight
  refine ⟨rfl, fun s w r hdec => ⟨(decode_fields hdec).2, fun hsv hkv hr => ?_⟩⟩
  exact issue_of_firstFailed hdec (by simp [checksOf, hsv, hkv, hr]) (by decide)

end

section
/-! Reset and hazards: the registers after reset, and what an issued word's error and latency depend on. -/

namespace Sys2Proof.Machine

variable {s s' : State}

/-! ## After reset (R280) -/

@[simp] theorem STATUS_resetRegisters (s : State) : STATUS (resetRegisters s) = 0x0000 := by
  simp [STATUS, ErrorCode.code]

/-! ## What the latency depends on (R16, R292) -/

/-- Every issued word answers, with the first failed check in ERR, so that check alone picks the form of the latency. -/
theorem latency_eq (w : Word) (s : State) :
    latency w s =
      if firstError w s = .noError then Config.lat (fieldOP w) (latencyKb w) else Config.latOnError w s.SV s.KV := by
  obtain ⟨t, ht⟩ := exists_issue_eq_next w s
  simp only [latency, ht, firstFailedCheckIsReported w s t ht]

/-- The checks of R249 read the word, STEP_PORT, SV and KV. -/
theorem firstError_congr (w : Word) (hport : s.cfg.STEP_PORT = s'.cfg.STEP_PORT) (hsv : s.SV = s'.SV)
    (hkv : s.KV = s'.KV) : firstError w s = firstError w s' := by
  simp only [firstError, hport, hsv, hkv]

end Sys2Proof.Machine

open Sys2Proof Sys2Proof.Machine

/-- Settles O42: ERR is the first failed check, the latency is a function of it and of the word, SV and KV, and that check
is the same in both states. -/
theorem latencyDoesNotDependOnData : Obligations.LatencyDoesNotDependOnData := by
  unfold Obligations.LatencyDoesNotDependOnData
  intro w s s' hport hsv hkv
  have herr : firstError w s = firstError w s' := firstError_congr w hport hsv hkv
  refine ⟨fun t t' ht ht' => ?_, ?_⟩
  · calc t.ERR = firstError w s := firstFailedCheckIsReported w s t ht
      _ = firstError w s' := herr
      _ = t'.ERR := (firstFailedCheckIsReported w s' t' ht').symm
  · rw [latency_eq, latency_eq, herr, hsv, hkv]

/-- Settles O11: the step is the reset event, which sets the registers to their reset values. -/
theorem resetSetsEveryRegister : Obligations.ResetSetsEveryRegister := by
  unfold Obligations.ResetSetsEveryRegister
  intro s rest hev
  refine ⟨resetRegisters { s with events := rest }, step_of_events_cons hev, ?_⟩
  simp [Orchestrator.idle, ErrorCode.code]

end

section
/-! Reset and the host's side: the port levels and the later events are inputs, which the reset event does not set. -/

open Sys2Proof Sys2Proof.Machine

/-- Settles O12: the step takes the reset event off the list and sets the registers, and the port levels and the later
events are none of these. -/
theorem resetKeepsTheHostSide : Obligations.ResetKeepsTheHostSide := by
  unfold Obligations.ResetKeepsTheHostSide
  intro s rest hev
  exact ⟨resetRegisters { s with events := rest }, step_of_events_cons hev,
    resetRegisters_DIN_BLOCK _, resetRegisters_DIN_KEY _, resetRegisters_events _⟩

end
